-- ==== Sys2Proof/Word.lean ====
section
/-! DEFINITION. The word and byte types of the host bus (spec/20_memory.md R70). -/

namespace Sys2Proof

/-- One 32-bit word: what a legal host access moves, and the size of a command (R70, R90). -/
abbrev Word := BitVec 32

/-- One byte: a lane of a bus word, and a digit of a digest (R70, R216). -/
abbrev Byte := BitVec 8

end Sys2Proof
end

