-- ==== Sys2Proof/Syntax.lean ====
section
/-! DEFINITION. The commands of the block as syntax: register numbers, the 18 commands (spec/30_encoding.md R92, R99), the
raw fields of a command word (R90) and what decoding a word can answer (R96). -/

namespace Sys2Proof

/-- A big register number: B0 to B15 (R13, R21). -/
abbrev BReg := Fin 16

/-- A point register number: P0 to P7 (R13, R24). -/
abbrev PReg := Fin 8

/-- The commands; operands in the order of the assembler syntax R99. -/
inductive Instr where
  | nop
  | modadd (d a b m : BReg)
  | modsub (d a b m : BReg)
  | modmul (d a b m : BReg)
  | montmul (d a b m : BReg)
  | modred (d a m : BReg)
  | modinv (d a m : BReg)
  | modexp (d base exp m : BReg)
  | ecadd (d p q : PReg)
  | ecdbl (d p : PReg)
  | ecmul (d : PReg) (k : BReg) (p : PReg)
  | ecchk (p : PReg)
  | ecdsaKeygen (priv : BReg) (pub : PReg)
  | ecdsaSign (r sg h priv : BReg)
  | ecdsaVerify (h r sg : BReg) (pub : PReg)
  | rsaKeygen (n d : BReg)
  | rsaSign (sig h d n : BReg)
  | rsaVerify (strip : Bool) (h sig n : BReg)
  deriving DecidableEq, Repr

/-- The 18 assigned opcodes, by name (R92). -/
inductive Opcode where
  | nop | modadd | modsub | modmul | montmul | modred | modinv | modexp
  | ecadd | ecdbl | ecmul | ecchk
  | ecdsaKeygen | ecdsaSign | ecdsaVerify
  | rsaKeygen | rsaSign | rsaVerify
  deriving DecidableEq, Repr

/-- The nine fields of a format C word (R90). -/
structure Fields where
  op : BitVec 6
  fa : BitVec 4
  fb : BitVec 4
  fc : BitVec 4
  fd : BitVec 4
  pa : BitVec 3
  pb : BitVec 3
  pc : BitVec 3
  s : BitVec 1
  deriving DecidableEq, Repr

/-- A row of the table of R94: the word with OP set and every other field zero, and the mask of the fixed bits. -/
structure Row where
  pattern : Word
  mask : Word
  deriving DecidableEq, Repr

/-- What decoding a word answers (R96). -/
inductive Decoded where
  | illegal
  | reserved (op : Opcode)
  | cmd (i : Instr)
  deriving DecidableEq, Repr

end Sys2Proof
end

