-- ==== Sys2Proof/WellFormed.lean ====
section
/-! DEFINITION. Well-formedness of the raw fields of a command word: the opcode is assigned (spec/30_encoding.md R92) and
every field that the opcode does not use is zero (R93). A field that an opcode uses is legal at every value (R93). -/

namespace Sys2Proof

/-- Which fields an opcode uses (R93). -/
structure FieldUse where
  fa : Bool := false
  fb : Bool := false
  fc : Bool := false
  fd : Bool := false
  pa : Bool := false
  pb : Bool := false
  pc : Bool := false
  s : Bool := false
  deriving DecidableEq, Repr

/-- The assigned OP values, with the fields each uses (R92, and the roles of R94). -/
def assignedOps : List (Nat × FieldUse) :=
  [ (0x00, { }),
    (0x01, { fa := true, fb := true, fc := true, fd := true }),
    (0x02, { fa := true, fb := true, fc := true, fd := true }),
    (0x03, { fa := true, fb := true, fc := true, fd := true }),
    (0x04, { fa := true, fb := true, fc := true, fd := true }),
    (0x05, { fa := true, fb := true, fd := true }),
    (0x06, { fa := true, fb := true, fd := true }),
    (0x07, { fa := true, fb := true, fc := true, fd := true }),
    (0x10, { pa := true, pb := true, pc := true }),
    (0x11, { pa := true, pb := true }),
    (0x12, { fb := true, pa := true, pb := true }),
    (0x13, { pb := true }),
    (0x20, { fa := true, pa := true }),
    (0x21, { fa := true, fb := true, fc := true, fd := true }),
    (0x22, { fb := true, fc := true, fd := true, pb := true }),
    (0x30, { fa := true, fb := true }),
    (0x31, { fa := true, fb := true, fc := true, fd := true }),
    (0x32, { fb := true, fc := true, fd := true, s := true }) ]

/-- The fields that an OP value uses, or none where it is unassigned. -/
def fieldUse (op : BitVec 6) : Option FieldUse :=
  (assignedOps.find? fun e => e.1 == op.toNat).map Prod.snd

namespace Fields

/-- The check of R92: the OP value is assigned. -/
def opAssigned (f : Fields) : Bool := (fieldUse f.op).isSome

/-- The check of R93: every field that the opcode does not use is zero. -/
def unusedZero (f : Fields) : Bool :=
  match fieldUse f.op with
  | none => true
  | some u =>
    (u.fa || f.fa == 0) && (u.fb || f.fb == 0) && (u.fc || f.fc == 0) && (u.fd || f.fd == 0) &&
      (u.pa || f.pa == 0) && (u.pb || f.pb == 0) && (u.pc || f.pc == 0) && (u.s || f.s == 0)

/-- A well-formed command word passes both checks. -/
abbrev WellFormed (f : Fields) : Prop := f.opAssigned = true ∧ f.unusedZero = true

end Fields

end Sys2Proof
end

