-- ==== Sys2Proof/Decode.lean ====
section
/-! DEFINITION. The decoder (spec/30_encoding.md R96), total on every 32-bit word, then the encoder, written from the field
table R90, the roles R94 and the syntax R99. -/

namespace Sys2Proof

/-- The fields of a word (R90). -/
def unpack (w : Word) : Fields where
  op := w.extractLsb' 26 6
  fa := w.extractLsb' 22 4
  fb := w.extractLsb' 18 4
  fc := w.extractLsb' 14 4
  fd := w.extractLsb' 10 4
  pa := w.extractLsb' 7 3
  pb := w.extractLsb' 4 3
  pc := w.extractLsb' 1 3
  s := w.extractLsb' 0 1

/-- The word of the fields (R90). -/
def pack (f : Fields) : Word :=
  f.op ++ f.fa ++ f.fb ++ f.fc ++ f.fd ++ f.pa ++ f.pb ++ f.pc ++ f.s

/-- The OP values (R92). -/
def opValue : Opcode → BitVec 6
  | .nop => 0x00 | .modadd => 0x01 | .modsub => 0x02 | .modmul => 0x03
  | .montmul => 0x04 | .modred => 0x05 | .modinv => 0x06 | .modexp => 0x07
  | .ecadd => 0x10 | .ecdbl => 0x11 | .ecmul => 0x12 | .ecchk => 0x13
  | .ecdsaKeygen => 0x20 | .ecdsaSign => 0x21 | .ecdsaVerify => 0x22
  | .rsaKeygen => 0x30 | .rsaSign => 0x31 | .rsaVerify => 0x32

/-- The assigned opcodes in the order of R92. -/
def opcodes : List Opcode :=
  [.nop, .modadd, .modsub, .modmul, .montmul, .modred, .modinv, .modexp, .ecadd, .ecdbl, .ecmul, .ecchk,
    .ecdsaKeygen, .ecdsaSign, .ecdsaVerify, .rsaKeygen, .rsaSign, .rsaVerify]

/-- The opcode of an OP value; none where it is unassigned (R92). -/
def opcodeOf (op : BitVec 6) : Option Opcode :=
  opcodes.find? fun o => opValue o == op

/-- The rows of R94. -/
def row : Opcode → Row
  | .nop => ⟨0x00000000, 0xFFFFFFFF⟩
  | .modadd => ⟨0x04000000, 0xFC0003FF⟩
  | .modsub => ⟨0x08000000, 0xFC0003FF⟩
  | .modmul => ⟨0x0C000000, 0xFC0003FF⟩
  | .montmul => ⟨0x10000000, 0xFC0003FF⟩
  | .modred => ⟨0x14000000, 0xFC03C3FF⟩
  | .modinv => ⟨0x18000000, 0xFC03C3FF⟩
  | .modexp => ⟨0x1C000000, 0xFC0003FF⟩
  | .ecadd => ⟨0x40000000, 0xFFFFFC01⟩
  | .ecdbl => ⟨0x44000000, 0xFFFFFC0F⟩
  | .ecmul => ⟨0x48000000, 0xFFC3FC0F⟩
  | .ecchk => ⟨0x4C000000, 0xFFFFFF8F⟩
  | .ecdsaKeygen => ⟨0x80000000, 0xFC3FFC7F⟩
  | .ecdsaSign => ⟨0x84000000, 0xFC0003FF⟩
  | .ecdsaVerify => ⟨0x88000000, 0xFFC0038F⟩
  | .rsaKeygen => ⟨0xC0000000, 0xFC03FFFF⟩
  | .rsaSign => ⟨0xC4000000, 0xFC0003FF⟩
  | .rsaVerify => ⟨0xC8000000, 0xFFC003FE⟩

/-- The command of an opcode and the fields of a word that matches its row: each operand from the field that R94 and R99
give it. -/
def build (o : Opcode) (f : Fields) : Instr :=
  match o with
  | .nop => .nop
  | .modadd => .modadd f.fa.toFin f.fb.toFin f.fc.toFin f.fd.toFin
  | .modsub => .modsub f.fa.toFin f.fb.toFin f.fc.toFin f.fd.toFin
  | .modmul => .modmul f.fa.toFin f.fb.toFin f.fc.toFin f.fd.toFin
  | .montmul => .montmul f.fa.toFin f.fb.toFin f.fc.toFin f.fd.toFin
  | .modred => .modred f.fa.toFin f.fb.toFin f.fd.toFin
  | .modinv => .modinv f.fa.toFin f.fb.toFin f.fd.toFin
  | .modexp => .modexp f.fa.toFin f.fb.toFin f.fc.toFin f.fd.toFin
  | .ecadd => .ecadd f.pa.toFin f.pb.toFin f.pc.toFin
  | .ecdbl => .ecdbl f.pa.toFin f.pb.toFin
  | .ecmul => .ecmul f.pa.toFin f.fb.toFin f.pb.toFin
  | .ecchk => .ecchk f.pb.toFin
  | .ecdsaKeygen => .ecdsaKeygen f.fa.toFin f.pa.toFin
  | .ecdsaSign => .ecdsaSign f.fa.toFin f.fd.toFin f.fb.toFin f.fc.toFin
  | .ecdsaVerify => .ecdsaVerify f.fb.toFin f.fc.toFin f.fd.toFin f.pb.toFin
  | .rsaKeygen => .rsaKeygen f.fa.toFin f.fb.toFin
  | .rsaSign => .rsaSign f.fa.toFin f.fb.toFin f.fc.toFin f.fd.toFin
  | .rsaVerify => .rsaVerify (f.s == 1#1) f.fb.toFin f.fc.toFin f.fd.toFin

/-- Decoding (R96): an unassigned OP is Illegal, a word that differs from its row on the row's mask is Reserved. -/
def decode (w : Word) : Decoded :=
  match opcodeOf (unpack w).op with
  | none => .illegal
  | some o => if w &&& (row o).mask ≠ (row o).pattern then .reserved o else .cmd (build o (unpack w))

/-- The opcode of a command (R92). -/
def opcode : Instr → Opcode
  | .nop => .nop
  | .modadd .. => .modadd
  | .modsub .. => .modsub
  | .modmul .. => .modmul
  | .montmul .. => .montmul
  | .modred .. => .modred
  | .modinv .. => .modinv
  | .modexp .. => .modexp
  | .ecadd .. => .ecadd
  | .ecdbl .. => .ecdbl
  | .ecmul .. => .ecmul
  | .ecchk .. => .ecchk
  | .ecdsaKeygen .. => .ecdsaKeygen
  | .ecdsaSign .. => .ecdsaSign
  | .ecdsaVerify .. => .ecdsaVerify
  | .rsaKeygen .. => .rsaKeygen
  | .rsaSign .. => .rsaSign
  | .rsaVerify .. => .rsaVerify

/-- A format C word from register numbers: a field that is left out is zero (R93, R99). -/
def fieldsWith (o : Opcode) (fa fb fc fd : BReg := 0) (pa pb pc : PReg := 0) (s : Bool := false) : Fields where
  op := opValue o
  fa := .ofFin fa
  fb := .ofFin fb
  fc := .ofFin fc
  fd := .ofFin fd
  pa := .ofFin pa
  pb := .ofFin pb
  pc := .ofFin pc
  s := .ofBool s

/-- The fields of a command: the bracketed fields of R99, every other field zero. -/
def fieldsOf : Instr → Fields
  | .nop => fieldsWith .nop
  | .modadd d a b m => fieldsWith .modadd (fa := d) (fb := a) (fc := b) (fd := m)
  | .modsub d a b m => fieldsWith .modsub (fa := d) (fb := a) (fc := b) (fd := m)
  | .modmul d a b m => fieldsWith .modmul (fa := d) (fb := a) (fc := b) (fd := m)
  | .montmul d a b m => fieldsWith .montmul (fa := d) (fb := a) (fc := b) (fd := m)
  | .modred d a m => fieldsWith .modred (fa := d) (fb := a) (fd := m)
  | .modinv d a m => fieldsWith .modinv (fa := d) (fb := a) (fd := m)
  | .modexp d base exp m => fieldsWith .modexp (fa := d) (fb := base) (fc := exp) (fd := m)
  | .ecadd d p q => fieldsWith .ecadd (pa := d) (pb := p) (pc := q)
  | .ecdbl d p => fieldsWith .ecdbl (pa := d) (pb := p)
  | .ecmul d k p => fieldsWith .ecmul (pa := d) (fb := k) (pb := p)
  | .ecchk p => fieldsWith .ecchk (pb := p)
  | .ecdsaKeygen priv pub => fieldsWith .ecdsaKeygen (fa := priv) (pa := pub)
  | .ecdsaSign r sg h priv => fieldsWith .ecdsaSign (fa := r) (fd := sg) (fb := h) (fc := priv)
  | .ecdsaVerify h r sg pub => fieldsWith .ecdsaVerify (fb := h) (fc := r) (fd := sg) (pb := pub)
  | .rsaKeygen n d => fieldsWith .rsaKeygen (fa := n) (fb := d)
  | .rsaSign sig h d n => fieldsWith .rsaSign (fa := sig) (fb := h) (fc := d) (fd := n)
  | .rsaVerify strip h sig n => fieldsWith .rsaVerify (fb := h) (fc := sig) (fd := n) (s := strip)

/-- The word of a command: enc(cmd) of R100. -/
def encode (i : Instr) : Word := pack (fieldsOf i)

/-- A command is well formed when the fields of its word are (R92, R93). -/
abbrev Instr.WellFormed (i : Instr) : Prop := (fieldsOf i).WellFormed

/-- The command that a word of the opcode table stands for. Every command is one 32-bit word (R98), and bit 0 of the table
is bit 0 of the word; a number of fewer bits has its upper bits zero. -/
def decodeTableWord (nbits w : Nat) : Option Instr :=
  match decode (BitVec.ofNat 32 (w % 2 ^ nbits)) with
  | .cmd i => some i
  | .reserved _ => none
  | .illegal => none

/-- The name of a big register in the assembler syntax (R99). -/
def bregName (r : BReg) : String := "B" ++ toString r.val

/-- The name of a point register in the assembler syntax (R99). -/
def pregName (r : PReg) : String := "P" ++ toString r.val

/-- A line of assembler: a mnemonic and its operands (R99). -/
def asmLine (mnemonic : String) (ops : List String) : String :=
  match ops with
  | [] => mnemonic
  | _ :: _ => mnemonic ++ " " ++ String.intercalate ", " ops

/-- The assembler syntax of a command (R99). -/
def asm : Instr → String
  | .nop => "NOP"
  | .modadd d a b m => asmLine "MODADD" [bregName d, bregName a, bregName b, bregName m]
  | .modsub d a b m => asmLine "MODSUB" [bregName d, bregName a, bregName b, bregName m]
  | .modmul d a b m => asmLine "MODMUL" [bregName d, bregName a, bregName b, bregName m]
  | .montmul d a b m => asmLine "MONTMUL" [bregName d, bregName a, bregName b, bregName m]
  | .modred d a m => asmLine "MODRED" [bregName d, bregName a, bregName m]
  | .modinv d a m => asmLine "MODINV" [bregName d, bregName a, bregName m]
  | .modexp d base exp m => asmLine "MODEXP" [bregName d, bregName base, bregName exp, bregName m]
  | .ecadd d p q => asmLine "ECADD" [pregName d, pregName p, pregName q]
  | .ecdbl d p => asmLine "ECDBL" [pregName d, pregName p]
  | .ecmul d k p => asmLine "ECMUL" [pregName d, bregName k, pregName p]
  | .ecchk p => asmLine "ECCHK" [pregName p]
  | .ecdsaKeygen priv pub => asmLine "ECDSA_KEYGEN" [bregName priv, pregName pub]
  | .ecdsaSign r sg h priv => asmLine "ECDSA_SIGN" [bregName r, bregName sg, bregName h, bregName priv]
  | .ecdsaVerify h r sg pub => asmLine "ECDSA_VERIFY" [bregName h, bregName r, bregName sg, pregName pub]
  | .rsaKeygen n d => asmLine "RSA_KEYGEN" [bregName n, bregName d]
  | .rsaSign sig h d n => asmLine "RSA_SIGN" [bregName sig, bregName h, bregName d, bregName n]
  | .rsaVerify false h sig n => asmLine "RSA_VERIFY" [bregName h, bregName sig, bregName n]
  | .rsaVerify true h sig n => asmLine "RSA_VERIFY.S" [bregName h, bregName sig, bregName n]

end Sys2Proof
end

