-- ==== Sys2Proof/Config.lean ====
section
/-! DEFINITION. What is fixed for one block (the parameters OPW, PBITS and WBASE, the fixed constants, the reset
curve) and the free values: the constants with no body that stand for what the spec leaves open. -/

namespace Sys2Proof

/-- The parameters of the model (spec/00_scope.md R10, R11; spec/20_memory.md R60). They are held in State and no step
changes them, so every statement about every state is about every legal choice of them (log 3). -/
structure Params where
  /-- OPW: the width in bits of every big register, configuration register and coordinate (R10). -/
  opw : Nat
  /-- PBITS: the bit length RSA_KEYGEN asks of the prime port (R11). -/
  pbits : Nat
  /-- WBASE: the platform's base address of the register window (R60). -/
  wbase : Nat
  deriving DecidableEq, Repr

namespace Params

/-- The legal values of OPW and PBITS (R10, R11). -/
abbrev Legal (par : Params) : Prop :=
  par.opw % 64 = 0 ∧ 256 ≤ par.opw ∧ par.opw ≤ 4096 ∧ 2 ≤ par.pbits ∧ 2 * par.pbits ≤ par.opw

/-- OPW/32: the number of 32-bit words of a value (R21). -/
def words (par : Params) : Nat := par.opw / 32

/-- The reference configuration (R10, R11); WBASE = 0 is a DESIGN CHOICE (log 3). -/
def reference : Params := ⟨2048, 1024, 0⟩

end Params

namespace Config

/-- MWORD, the digit width of the Montgomery multiplier (R12). -/
def mword : Nat := 64

/-- E, the fixed RSA public exponent (R13, R214). -/
def rsaExponent : Nat := 65537

/-- The bound on digest operands: no SHA-256 digest is as large (R182). -/
def digestBound : Nat := 2 ^ 256

/-- The value of the ID register (R31). -/
def idWord : Word := 0x43534331#32

/-- The size in bytes of the register window (R60). -/
def windowBytes : Nat := 0x8000

/-- The secp256k1 parameters that the configuration registers reset to (R37). -/
def secpP : Nat := 0xFFFFFFFFFFFFFFFFFFFFFFFFFFFFFFFFFFFFFFFFFFFFFFFFFFFFFFFEFFFFFC2F
def secpA : Nat := 0
def secpB : Nat := 7
def secpN : Nat := 0xFFFFFFFFFFFFFFFFFFFFFFFFFFFFFFFEBAAEDCE6AF48A03BBFD25E8CD0364141
def secpGx : Nat := 0x79BE667EF9DCBBAC55A06295CE870B07029BFCDB2DCE28D959F2815B16F81798
def secpGy : Nat := 0x483ADA7726A3C4655DA4FBFC0E1108A8FD17B448A68554199C47D08FFB10D4B8

/-- How many words the registers of a snapshot can have: 16 big registers of 128 words, and 8 point registers of an INF word
and 128 words for each of X and Y (R62, R63). -/
def snapshotWords : Nat := 16 * 128 + 8 * 257

/-- Free value: an unspecified word, as a host read returns it (R22, R69; log 6) and as a command that needs an unwritten
word computes with it (R22; log 7). -/
opaque freeWord : Nat → Word

/-- Free value: what the random port answers when no answer is listed (R254; log 4). -/
opaque freeRandom : Nat → Nat

/-- Free value: what the prime port answers when no answer is listed; `none` is Fail (R255; log 5). -/
opaque freePrime : Nat → Option Nat

end Config

end Sys2Proof
end

