-- ==== Sys2Proof/Machine/State.lean ====
section
/-! DEFINITION. The state of the block as plain data: the registers of spec/10_state.md, the sequencer's phase, and the
model's own fields for the world outside (the inputs to come, the ports' answers to come, the last bus response). -/

namespace Sys2Proof.Machine

/-- The error codes of R241; ERRCODE holds one of them. Their numbers are `errNumber` (Flags.lean). -/
inductive ErrCode where
  | none
  | illegalOpcode
  | reservedField
  | destAlias
  | badConfig
  | badModulus
  | operandRange
  | notInvertible
  | primeGenFail
  | expNotInvertible
  | retryExhausted
  deriving DecidableEq, Repr

/-- A point of the curve group: the identity O or an affine pair (R17, R24). -/
inductive Point where
  | inf
  | aff (x y : Nat)
  deriving DecidableEq, Repr

/-- A value of OPW bits as a register holds it (R21), with the written status of its words (R22): bit k of `written` is the
flag of word k, for the 128 word slots that the window gives a register (R62). -/
structure BigReg where
  value : Nat
  written : BitVec 128
  deriving DecidableEq, Repr

/-- A point register (R24), with the written status of its INF word (R22). -/
structure PointReg where
  inf : Bool
  infWritten : Bool
  x : BigReg
  y : BigReg
  deriving DecidableEq, Repr

/-- The curve configuration registers (R37). -/
structure CurveCfg where
  p : Nat
  a : Nat
  b : Nat
  n : Nat
  gx : Nat
  gy : Nat
  deriving DecidableEq, Repr

/-- What acceptance snapshots (R29). -/
structure Snapshot where
  big : Vector BigReg 16
  pt : Vector PointReg 8
  cfg : CurveCfg
  signmax : BitVec 8
  deriving DecidableEq, Repr

/-- The sequencer's phase (R29): IDLE, or BUSY with the latched word and the snapshot. -/
inductive Phase where
  | idle
  | busy (word : Word) (snap : Snapshot)
  deriving DecidableEq, Repr

/-- One step of the world outside, or the sequencer's turn to complete (R20, R271, R284; log 1). -/
inductive Input where
  /-- A host read of `size` bytes at `addr` (R60, R71). -/
  | read (addr size : Nat)
  /-- A host write of `size` bytes at `addr`; `v` is the data on the 32-bit lanes (R60, R71). -/
  | write (addr size : Nat) (v : Word)
  /-- The sequencer completes the running command, if one runs (R29, R283). -/
  | complete
  /-- The platform asserts reset (R271). -/
  | resetAssert
  /-- The platform releases reset (R271). -/
  | resetRelease
  deriving DecidableEq, Repr

/-- What the bus answers to a host access (log 9). -/
inductive BusResp where
  /-- No access has been made. -/
  | none
  /-- A write was taken by the bus (dropped or not, R68). -/
  | ack
  /-- A read returned this word (R69). -/
  | data (v : Word)
  /-- The bus error response to an illegal access (R71). -/
  | busError
  /-- The address is outside the window: the block does not decode it, the answer is the platform's (R65; log 12). -/
  | notDecoded
  /-- Reset is asserted: the block gives no answer (R271; log 11). -/
  | noAnswer
  deriving DecidableEq, Repr

/-- The two ports' answers to come, oldest first, and the counter that free values are taken at (R254, R255; log 4, log 5,
log 6). In `prime`, `none` is the answer Fail. -/
structure Draws where
  rng : List Nat
  prime : List (Option Nat)
  free : Nat
  deriving DecidableEq, Repr

/-- The state of the block and of the model's boundary to the world outside. -/
structure State where
  /-- OPW, PBITS and WBASE; no step changes them (R43; log 3). -/
  par : Params
  /-- B0 to B15 (R21). -/
  big : Vector BigReg 16
  /-- P0 to P7 (R24). -/
  pt : Vector PointReg 8
  /-- The curve configuration registers (R37). -/
  cfg : CurveCfg
  /-- CTRL.IE (R33). -/
  ie : Bool
  /-- CTRL.LOCK (R33). -/
  lock : Bool
  /-- STATUS.DONE (R34). -/
  done : Bool
  /-- STATUS.RESULT (R34, R40). -/
  result : Bool
  /-- STATUS.CMDOVR (R34). -/
  cmdovr : Bool
  /-- STATUS.WRDROP (R34). -/
  wrdrop : Bool
  /-- CMD (R35). -/
  cmd : Word
  /-- ERRCODE.CODE (R36). -/
  err : ErrCode
  /-- TRIES.COUNT (R39). -/
  tries : BitVec 8
  /-- SIGNMAX.MAX (R38). -/
  signmax : BitVec 8
  /-- The sequencer's phase (R29). -/
  phase : Phase
  /-- The level of the reset input (R271; log 11). -/
  resetLine : Bool
  /-- The steps the world outside makes next, in order (R284; log 1). -/
  inputs : List Input
  /-- The ports' answers to come and the free-value counter (log 4, log 5, log 6). -/
  draws : Draws
  /-- The bus's answer to the last host access (log 9). -/
  resp : BusResp
  /-- The first command of the run that needed an unwritten word, if one did: the command at which the spec's run ended as the
  fault UNWRITTEN_OPERAND (`modelRun`). The model's own record; nothing of the block reads it (R22, R284; log 7). -/
  unwrittenOperand : Option Instr
  deriving DecidableEq, Repr

/-- Why a step can end in a fault: it cannot. The block raises no trap (R240), every error completes its command (R241), an
illegal access gets a bus response (R71), and a command that needs an unwritten word runs on free values as the hardware does
(R22; log 7). The model fault that the spec has there is `ModelFault`, raised by `modelStep` (Machine/ModelRun.lean). -/
inductive Fault where
  deriving DecidableEq, Repr

/-- Why a step can be refused. -/
inductive Refusal where
  /-- An instruction with no meaning yet, by its mnemonic: raised by `exec`'s arms only, and by none of them now. Safe. -/
  | notModelled (mnemonic : String)
  deriving DecidableEq, Repr

/-- A big register right after reset: every word unwritten (R270); the value 0 is a DESIGN CHOICE that nothing can see
(log 8). -/
def BigReg.reset : BigReg := ⟨0, 0⟩

/-- A point register right after reset: INF, X and Y unwritten (R270; log 8). -/
def PointReg.reset : PointReg := ⟨false, false, BigReg.reset, BigReg.reset⟩

/-- The configuration registers right after reset: secp256k1 (R37, R270). -/
def CurveCfg.reset : CurveCfg where
  p := Config.secpP
  a := Config.secpA
  b := Config.secpB
  n := Config.secpN
  gx := Config.secpGx
  gy := Config.secpGy

/-- The machine right after reset (R270, R272), in the reference configuration (log 3), with nothing to come from outside. -/
def State.reset : State where
  par := Params.reference
  big := Vector.replicate 16 BigReg.reset
  pt := Vector.replicate 8 PointReg.reset
  cfg := CurveCfg.reset
  ie := false
  lock := false
  done := false
  result := false
  cmdovr := false
  wrdrop := false
  cmd := 0
  err := .none
  tries := 0
  signmax := 16
  phase := .idle
  resetLine := false
  inputs := []
  draws := ⟨[], [], 0⟩
  resp := .none
  unwrittenOperand := none

end Sys2Proof.Machine
end

