-- ==== Sys2Proof/Machine/Arith.lean ====
section
/-! DEFINITION. The exact integer arithmetic of the rules: bit length and bits (spec/00_scope.md R14), Euclidean remainder
(R15), modular inverse (R16), modular exponentiation (spec/40_modular_arithmetic.md R124), the Montgomery radix (R120) and
big-endian bytes (spec/43_rsa.md R216). Each algorithm has a lemma in Laws/Arith.lean that says what it computes. -/

namespace Sys2Proof.Machine

/-- bitlen(v): 0 for 0, else the least L with v < 2^L (R14). -/
def bitlen (v : Nat) : Nat := if v = 0 then 0 else Nat.log2 v + 1

/-- bit(v, i) (R14). -/
def bit (v i : Nat) : Bool := v / 2 ^ i % 2 == 1

/-- emod(a, m): the remainder in [0, m) (R15). -/
def emod (a : Int) (m : Nat) : Nat := (a % (m : Int)).toNat

/-- The extended Euclidean loop on remainders r0, r1 and coefficients t0, t1, kept reduced modulo m; the first argument is
fuel, and m is enough. -/
def euclid (m : Nat) : Nat → Nat → Nat → Nat → Nat → Nat × Nat
  | 0, r0, _, t0, _ => (r0, t0)
  | fuel + 1, r0, r1, t0, t1 =>
    if r1 = 0 then (r0, t0)
    else euclid m fuel r1 (r0 % r1) t1 (emod (t0 - (r0 / r1 : Nat) * t1) m)

/-- inv(a, m): the inverse in [0, m) where a is coprime to m, none otherwise (R16). -/
def inv (a : Int) (m : Nat) : Option Nat :=
  match euclid m m m (emod a m) 0 1 with
  | (g, t) => if g = 1 then some t else none

/-- Square and multiply over the bits i-1 down to 0 of the exponent. -/
def powLoop (base exp m : Nat) : Nat → Nat → Nat
  | 0, acc => acc
  | i + 1, acc =>
    powLoop base exp m i (if bit exp i then acc * acc % m * base % m else acc * acc % m)

/-- emod(base ^ exp, m) (R124). -/
def powMod (base exp m : Nat) : Nat := powLoop base exp m (bitlen exp) (1 % m)

/-- RB(m): the exponent of the Montgomery radix (R12, R120). -/
def radixBits (m : Nat) : Nat := Config.mword * ((bitlen m + (Config.mword - 1)) / Config.mword)

/-- R(m): the Montgomery radix (R12, R120). -/
def radix (m : Nat) : Nat := 2 ^ radixBits m

/-- The inverse of the Montgomery radix. R120 says that it exists for every odd m ≥ 3, so the default is never taken. -/
def radixInv (m : Nat) : Nat := (inv (radix m) m).getD 0

/-- The big-endian bytes of v in n bytes. -/
def bytesOfLength (n v : Nat) : List Byte :=
  (List.range n).map fun i => BitVec.ofNat 8 (v / 256 ^ (n - 1 - i))

/-- bytes(v): the minimal big-endian representation, empty for 0 (R216). -/
def minimalBytes (v : Nat) : List Byte := bytesOfLength ((bitlen v + 7) / 8) v

end Sys2Proof.Machine
end

