-- ==== Sys2Proof/Machine/Operands.lean ====
section
/-! DEFINITION. The words of a value (spec/10_state.md R21), their written status (R22), the snapshot (R29), the operand
forms: a big register, a point register, the configuration, SIGNMAX; and which registers each command reads
(spec/30_encoding.md R94). -/

namespace Sys2Proof.Machine

/-- Word k of a value: bits [32k+31 : 32k] (R21). -/
def wordOf (v k : Nat) : Word := BitVec.ofNat 32 (v / 2 ^ (32 * k))

/-- The value with word k replaced, every other word unchanged (R66). -/
def withWord (v k : Nat) (w : Word) : Nat :=
  v % 2 ^ (32 * k) + 2 ^ (32 * k) * (w.toNat + 2 ^ 32 * (v / 2 ^ (32 * (k + 1))))

/-- The written flags of a register all of whose OPW/32 words are written (R22). -/
def allFlags (par : Params) : BitVec 128 := BitVec.ofNat 128 (2 ^ par.words - 1)

/-- Every word 0 to OPW/32 - 1 of the register is written (R22). -/
def BigReg.allWritten (par : Params) (r : BigReg) : Bool :=
  (List.range par.words).all fun k => r.written.getLsbD k

/-- A register written as a whole with a value (R22). -/
def BigReg.full (par : Params) (v : Nat) : BigReg := ⟨v, allFlags par⟩

/-- A register after a host write of word k (R22, R66). -/
def BigReg.storeWord (r : BigReg) (k : Nat) (w : Word) : BigReg :=
  ⟨withWord r.value k w, r.written ||| BitVec.twoPow 128 k⟩

/-- The point that a point register denotes (R24). -/
def PointReg.point (r : PointReg) : Point := if r.inf then .inf else .aff r.x.value r.y.value

/-- The words of a point register that a command needs: INF, and X and Y when INF = 0 (R22). -/
def PointReg.neededWritten (par : Params) (r : PointReg) : Bool :=
  r.infWritten && (r.inf || (r.x.allWritten par && r.y.allWritten par))

/-- A point register written by a command (R25). -/
def PointReg.full (par : Params) : Point → PointReg
  | .inf => ⟨true, true, BigReg.full par 0, BigReg.full par 0⟩
  | .aff x y => ⟨false, true, BigReg.full par x, BigReg.full par y⟩

/-- G, the generator of the configuration (R17). -/
def CurveCfg.g (c : CurveCfg) : Point := .aff c.gx c.gy

/-- What acceptance would snapshot now (R29). -/
def State.liveSnapshot (s : State) : Snapshot := ⟨s.big, s.pt, s.cfg, s.signmax⟩

/-- The operands of the running command: the snapshot taken at acceptance (R18, R29). In IDLE no command runs and the step
asks for no operands; `exec` then reads the live registers, as if the command were accepted at that instant (log 15). -/
def State.operands (s : State) : Snapshot :=
  match s.phase with
  | .idle => s.liveSnapshot
  | .busy _ snap => snap

/-- B[i] of the snapshot (R17). -/
def Snapshot.b (o : Snapshot) (i : BReg) : Nat := o.big[i].value

/-- Pt[j] of the snapshot (R17). -/
def Snapshot.p (o : Snapshot) (j : PReg) : Point := o.pt[j].point

/-- The big registers that a command reads: the fields with role s or m (R22, R94). -/
def bigSources : Instr → List BReg
  | .nop => []
  | .modadd _ a b m => [a, b, m]
  | .modsub _ a b m => [a, b, m]
  | .modmul _ a b m => [a, b, m]
  | .montmul _ a b m => [a, b, m]
  | .modred _ a m => [a, m]
  | .modinv _ a m => [a, m]
  | .modexp _ base exp m => [base, exp, m]
  | .ecadd _ _ _ => []
  | .ecdbl _ _ => []
  | .ecmul _ k _ => [k]
  | .ecchk _ => []
  | .ecdsaKeygen _ _ => []
  | .ecdsaSign _ _ h priv => [h, priv]
  | .ecdsaVerify h r sg _ => [h, r, sg]
  | .rsaKeygen _ _ => []
  | .rsaSign _ h d n => [h, d, n]
  | .rsaVerify _ h sig n => [h, sig, n]

/-- The point registers that a command reads (R22, R26, R94). -/
def pointSources : Instr → List PReg
  | .nop => []
  | .modadd _ _ _ _ => []
  | .modsub _ _ _ _ => []
  | .modmul _ _ _ _ => []
  | .montmul _ _ _ _ => []
  | .modred _ _ _ => []
  | .modinv _ _ _ => []
  | .modexp _ _ _ _ => []
  | .ecadd _ p q => [p, q]
  | .ecdbl _ p => [p]
  | .ecmul _ _ p => [p]
  | .ecchk p => [p]
  | .ecdsaKeygen _ _ => []
  | .ecdsaSign _ _ _ _ => []
  | .ecdsaVerify _ _ _ pub => [pub]
  | .rsaKeygen _ _ => []
  | .rsaSign _ _ _ _ => []
  | .rsaVerify _ _ _ _ => []

/-- A big register with its written words as they are and a free word in place of each unwritten one (R22; log 7). -/
def BigReg.filled (par : Params) (free : Nat → Word) (r : BigReg) : BigReg :=
  BigReg.full par
    ((List.range par.words).foldl (fun v k => if r.written.getLsbD k then v else withWord v k (free k)) r.value)

/-- A point register with a free value in place of each unwritten word: number 0 for INF (its bit 0, R63), then 128 for X and
128 for Y (R22; log 7). -/
def PointReg.filled (par : Params) (free : Nat → Word) (r : PointReg) : PointReg where
  inf := if r.infWritten then r.inf else (free 0).getLsbD 0
  infWritten := true
  x := r.x.filled par fun k => free (1 + k)
  y := r.y.filled par fun k => free (129 + k)

/-- The snapshot with a free value, taken from the counter n on, in place of each unwritten word: one value for each word, so
that two operands that name one register are equal (R22, R29; log 7). -/
def Snapshot.filled (par : Params) (n : Nat) (o : Snapshot) : Snapshot :=
  { o with
      big := Vector.ofFn fun i => o.big[i].filled par fun k => Config.freeWord (n + 128 * i.val + k)
      pt := Vector.ofFn fun j => o.pt[j].filled par fun k => Config.freeWord (n + 2048 + 257 * j.val + k) }

/-- Every word that the command needs is written (R22). -/
def operandsWritten (par : Params) (o : Snapshot) (i : Instr) : Bool :=
  ((bigSources i).all fun r => o.big[r].allWritten par) &&
    ((pointSources i).all fun r => o.pt[r].neededWritten par)

end Sys2Proof.Machine
end

