-- ==== Sys2Proof/Machine/Flags.lean ====
section
/-! DEFINITION. The flags and the control and status words: error numbers (spec/60_exceptions.md R241), STATUS and CTRL
(spec/10_state.md R33, R34), SIGNMAX (R38), PARAM (R32), the interrupt level (R42). -/

namespace Sys2Proof.Machine

/-- The numbers of the error codes (R241). -/
def errNumber : ErrCode → BitVec 8
  | .none => 0x00
  | .illegalOpcode => 0x01
  | .reservedField => 0x02
  | .destAlias => 0x03
  | .badConfig => 0x04
  | .badModulus => 0x05
  | .operandRange => 0x06
  | .notInvertible => 0x07
  | .primeGenFail => 0x08
  | .expNotInvertible => 0x09
  | .retryExhausted => 0x0A

/-- STATUS.BUSY: the phase is BUSY (R34). -/
def State.busy (s : State) : Bool :=
  match s.phase with
  | .idle => false
  | .busy _ _ => true

/-- STATUS.ERR: ERRCODE is not 0 (R34). -/
def State.errFlag (s : State) : Bool := errNumber s.err != 0

/-- IRQ: CTRL.IE AND STATUS.DONE (R42, R250). -/
def State.irq (s : State) : Bool := s.ie && s.done

/-- A flag as a bit of a word. -/
def flagBit (b : Bool) (n : Nat) : Word := if b then BitVec.twoPow 32 n else 0

/-- The STATUS word (R34). -/
def State.statusWord (s : State) : Word :=
  flagBit s.busy 0 ||| flagBit s.done 1 ||| flagBit s.errFlag 2 ||| flagBit s.result 3 |||
    flagBit s.cmdovr 4 ||| flagBit s.wrdrop 5

/-- The CTRL word (R33). -/
def State.ctrlWord (s : State) : Word := flagBit s.ie 0 ||| flagBit s.lock 1

/-- The PARAM word (R32). -/
def State.paramWord (s : State) : Word := BitVec.ofNat 32 (s.par.pbits * 2 ^ 16 + s.par.opw)

/-- The ERRCODE word (R36). -/
def State.errWord (s : State) : Word := (errNumber s.err).setWidth 32

/-- A host write of STATUS: write 1 to clear DONE, CMDOVR and WRDROP, nothing else (R34). -/
def State.clearStatus (s : State) (v : Word) : State :=
  { s with done := s.done && !v.getLsbD 1, cmdovr := s.cmdovr && !v.getLsbD 4, wrdrop := s.wrdrop && !v.getLsbD 5 }

/-- A host write of CTRL: IE is written, LOCK is write 1 to set (R33). -/
def State.writeCtrl (s : State) (v : Word) : State :=
  { s with ie := v.getLsbD 0, lock := s.lock || v.getLsbD 1 }

/-- What a write of v to SIGNMAX stores: v[7:0], or 1 where that is 0 (R38). -/
def signmaxOf (v : Word) : BitVec 8 := if v.setWidth 8 = 0#8 then 1 else v.setWidth 8

end Sys2Proof.Machine
end

