-- ==== Sys2Proof/Machine/Ops.lean ====
section
/-! DEFINITION. The shared operations: writing a destination register (spec/10_state.md R21, R25), accepting a command
(spec/20_memory.md R67), completing one with success or with an error (R29, R240), reset (spec/70_reset_and_hazards.md R271),
and the draws at the two ports (spec/60_exceptions.md R254, R255). -/

namespace Sys2Proof.Machine

/-- B[d] <- v: every word of the register becomes written (R17, R22). -/
def State.writeBig (s : State) (d : BReg) (v : Nat) : State :=
  { s with big := s.big.set d.val (BigReg.full s.par v) d.isLt }

/-- Pt[d] <- q (R17, R25). -/
def State.writePoint (s : State) (d : PReg) (q : Point) : State :=
  { s with pt := s.pt.set d.val (PointReg.full s.par q) d.isLt }

/-- TRIES <- count (R39). -/
def State.writeTries (s : State) (count : Nat) : State := { s with tries := BitVec.ofNat 8 count }

/-- Acceptance of the command word v in IDLE (R29, R67). -/
def State.accept (s : State) (v : Word) : State :=
  { s with cmd := v, done := false, err := .none, result := false, phase := .busy v s.liveSnapshot }

/-- The end of a completion step: ERRCODE, RESULT and DONE are set and the phase becomes IDLE (R29). -/
def State.finish (s : State) (code : ErrCode) (result : Bool) : State :=
  { s with err := code, result := result, done := true, phase := .idle }

/-- Completion with success of a command with no boolean (R29, R40). -/
def State.succeed (s : State) : State := s.finish .none false

/-- Completion with success of a command whose boolean is b (R40). -/
def State.succeedWith (s : State) (b : Bool) : State := s.finish .none b

/-- Completion with an error (R240): what this block has in place of taking an exception. No destination is written,
ERRCODE records the code, RESULT is 0, DONE is set and the sequencer is IDLE again; nothing is saved, no mode changes and
there is no vector (R247). -/
def State.completeError (s : State) (code : ErrCode) : State := s.finish code false

/-- The host's return from a completion (R248): a write of STATUS with bit 1 set clears DONE. Nothing is restored. -/
def State.acknowledge (s : State) : State := s.clearStatus 2

/-- Reset asserted (R271): one step sets every item of R270 to its reset value, and a running command is abandoned. The
parameters and the world outside are not state of the block (R43) and stay. -/
def State.assertReset (s : State) : State :=
  { State.reset with
      par := s.par, resetLine := true, inputs := s.inputs, draws := s.draws, resp := s.resp,
      unwrittenOperand := s.unwrittenOperand }

/-- Reset released (R271, R272). -/
def State.releaseReset (s : State) : State := { s with resetLine := false }

/-- The command i needs an unwritten word: the spec's step faults here (`modelStep`, R245); the hardware's goes on (R22), and
the first such command of the run is recorded, and the free values of the snapshot are used up (log 7). -/
def State.noteUnwritten (s : State) (i : Instr) : State :=
  { s with
      unwrittenOperand := some (s.unwrittenOperand.getD i)
      draws := { s.draws with free := s.draws.free + Config.snapshotWords } }

/-- The state on which the command completes: the test for unwritten words comes after decoding and before every other check
(R22, R245). -/
def State.prepared (s : State) (i : Instr) : State :=
  if operandsWritten s.par s.operands i then s else s.noteUnwritten i

/-- The operands that the command computes with: the snapshot (R18, R29), with free values in its unwritten words where the
command needs one of them (R22: "the hardware computes with unspecified values"; log 7). -/
def State.values (s : State) (i : Instr) : Snapshot :=
  if operandsWritten s.par s.operands i then s.operands else s.operands.filled s.par s.draws.free

/-- The command runs on its operands and completes. -/
def withOperands (i : Instr) (s : State) (k : State → Snapshot → State) : Host.Outcome State Fault Refusal :=
  .next (k (s.prepared i) (s.values i))

/-- A natural moved into [lo, hi); a natural that lies there stays as it is. -/
def intoRange (lo hi v : Nat) : Nat := lo + (v - lo) % (hi - lo)

/-- draw RNG(lo, hi): the next listed answer, or a free value when none is listed, in [lo, hi) by the port's contract
(R254; log 4). -/
def drawRng (lo hi : Nat) (d : Draws) : Nat × Draws :=
  match d.rng with
  | v :: rest => (intoRange lo hi v, { d with rng := rest })
  | [] => (intoRange lo hi (Config.freeRandom d.free), { d with free := d.free + 1 })

/-- An answer of the prime port as a natural below 2^OPW (R255). -/
def primeAnswer (par : Params) : Option Nat → Option Nat
  | none => none
  | some v => some (v % 2 ^ par.opw)

/-- draw PRIME(PBITS): the next listed answer, or a free value when none is listed; `none` is Fail (R255; log 5). -/
def drawPrime (par : Params) (d : Draws) : Option Nat × Draws :=
  match d.prime with
  | v :: rest => (primeAnswer par v, { d with prime := rest })
  | [] => (primeAnswer par (Config.freePrime d.free), { d with free := d.free + 1 })

/-- Completion of a command whose one destination is the big register d (R110). -/
def State.completeBig (s : State) (d : BReg) : Except ErrCode Nat → State
  | .ok v => (s.writeBig d v).succeed
  | .error code => s.completeError code

/-- Completion of a command whose one destination is the point register d (R151). -/
def State.completePoint (s : State) (d : PReg) : Except ErrCode Point → State
  | .ok q => (s.writePoint d q).succeed
  | .error code => s.completeError code

/-- Completion of a command that answers a boolean (R40). -/
def State.completeBool (s : State) : Except ErrCode Bool → State
  | .ok b => s.succeedWith b
  | .error code => s.completeError code

end Sys2Proof.Machine
end

