-- ==== Sys2Proof/Machine/Bus.lean ====
section
/-! DEFINITION. Host access to the register window (spec/20_memory.md R60 to R72): the window map, what a read returns, what
a write does, and which accesses are legal. -/

namespace Sys2Proof.Machine

/-- The six configuration registers, in the order of the window (R61, R64). -/
inductive CfgReg where
  | p | a | b | n | gx | gy
  deriving DecidableEq, Repr

/-- A word of the window (R61). -/
inductive Slot where
  | id
  | param
  | ctrl
  | status
  | cmd
  | errcode
  | tries
  | signmax
  | cfgWord (c : CfgReg) (k : Nat)
  | bigWord (i : BReg) (k : Nat)
  | infWord (j : PReg)
  | xWord (j : PReg) (k : Nat)
  | yWord (j : PReg) (k : Nat)
  | reserved
  deriving DecidableEq, Repr

/-- Configuration register c of the window (R64). -/
def cfgRegOf : Nat → CfgReg
  | 0 => .p
  | 1 => .a
  | 2 => .b
  | 3 => .n
  | 4 => .gx
  | _ => .gy

/-- The word at an offset that is a multiple of 4 inside the window (R61 to R65). A word slot at or above OPW/32 of a
register is no part of it (R62 to R64). -/
def slotAt (par : Params) (off : Nat) : Slot :=
  if off < 0x1000 then
    if off = 0x000 then .id
    else if off = 0x004 then .param
    else if off = 0x008 then .ctrl
    else if off = 0x00C then .status
    else if off = 0x010 then .cmd
    else if off = 0x014 then .errcode
    else if off = 0x018 then .tries
    else if off = 0x01C then .signmax
    else .reserved
  else if off < 0x1C00 then
    if off % 0x200 / 4 < par.words then .cfgWord (cfgRegOf ((off - 0x1000) / 0x200)) (off % 0x200 / 4) else .reserved
  else if off < 0x2000 then .reserved
  else if off < 0x4000 then
    if off % 0x200 / 4 < par.words then .bigWord (Fin.ofNat 16 ((off - 0x2000) / 0x200)) (off % 0x200 / 4) else .reserved
  else if off < 0x8000 then
    if off % 0x800 = 0 then .infWord (Fin.ofNat 8 ((off - 0x4000) / 0x800))
    else if off % 0x800 < 0x200 then .reserved
    else if off % 0x800 < 0x400 then
      if off % 0x200 / 4 < par.words then .xWord (Fin.ofNat 8 ((off - 0x4000) / 0x800)) (off % 0x200 / 4) else .reserved
    else if off % 0x800 < 0x600 then
      if off % 0x200 / 4 < par.words then .yWord (Fin.ofNat 8 ((off - 0x4000) / 0x800)) (off % 0x200 / 4) else .reserved
    else .reserved
  else .reserved

/-- A configuration register's value (R37). -/
def CurveCfg.get (c : CurveCfg) : CfgReg → Nat
  | .p => c.p
  | .a => c.a
  | .b => c.b
  | .n => c.n
  | .gx => c.gx
  | .gy => c.gy

/-- The configuration with one register replaced (R37). -/
def CurveCfg.set (c : CurveCfg) (r : CfgReg) (v : Nat) : CurveCfg :=
  match r with
  | .p => { c with p := v }
  | .a => { c with a := v }
  | .b => { c with b := v }
  | .n => { c with n := v }
  | .gx => { c with gx := v }
  | .gy => { c with gy := v }

/-- A big-register or point-register word as the host reads it: its value in IDLE where it is written, and unspecified
(`none`) where it is unwritten or the phase is BUSY (R22, R69). -/
def State.dataWord (s : State) (written : Bool) (w : Word) : Option Word :=
  if s.busy || !written then none else some w

/-- What a host read of a word returns; `none` where the spec says that it is unspecified (R69). -/
def State.readSlot (s : State) : Slot → Option Word
  | .id => some Config.idWord
  | .param => some s.paramWord
  | .ctrl => some s.ctrlWord
  | .status => some s.statusWord
  | .cmd => some s.cmd
  | .errcode => some s.errWord
  | .tries => some (s.tries.setWidth 32)
  | .signmax => some (s.signmax.setWidth 32)
  | .cfgWord c k => some (wordOf (s.cfg.get c) k)
  | .bigWord i k => s.dataWord (s.big[i].written.getLsbD k) (wordOf s.big[i].value k)
  | .infWord j => s.dataWord s.pt[j].infWritten (flagBit s.pt[j].inf 0)
  | .xWord j k => s.dataWord (s.pt[j].x.written.getLsbD k) (wordOf s.pt[j].x.value k)
  | .yWord j k => s.dataWord (s.pt[j].y.written.getLsbD k) (wordOf s.pt[j].y.value k)
  | .reserved => some 0

/-- The data-register words (R66). -/
def Slot.isData : Slot → Bool
  | .id => false
  | .param => false
  | .ctrl => false
  | .status => false
  | .cmd => false
  | .errcode => false
  | .tries => false
  | .signmax => true
  | .cfgWord _ _ => true
  | .bigWord _ _ => true
  | .infWord _ => true
  | .xWord _ _ => true
  | .yWord _ _ => true
  | .reserved => false

/-- A word of a configuration register. -/
def Slot.isCfg : Slot → Bool
  | .cfgWord _ _ => true
  | .id | .param | .ctrl | .status | .cmd | .errcode | .tries | .signmax | .bigWord _ _ | .infWord _ | .xWord _ _
  | .yWord _ _ | .reserved => false

/-- A host write to the word is dropped and flagged: a data-register word while BUSY, or a configuration word while LOCK
(R68). -/
def State.drops (s : State) (slot : Slot) : Bool := slot.isData && (s.busy || (slot.isCfg && s.lock))

/-- A big register with a host write of one word (R66). -/
def State.storeBig (s : State) (i : BReg) (k : Nat) (v : Word) : State :=
  { s with big := s.big.set i.val (s.big[i].storeWord k v) i.isLt }

/-- A point register replaced. -/
def State.storePoint (s : State) (j : PReg) (r : PointReg) : State := { s with pt := s.pt.set j.val r j.isLt }

/-- A host write of CMD (R67): acceptance in IDLE; in BUSY the write is dropped and CMDOVR is set. -/
def State.writeCmd (s : State) (v : Word) : State := if s.busy then { s with cmdovr := true } else s.accept v

/-- The effect of a host write that is not dropped (R33 to R39, R65, R66, R67). -/
def State.storeSlot (s : State) (v : Word) : Slot → State
  | .id => s
  | .param => s
  | .ctrl => s.writeCtrl v
  | .status => s.clearStatus v
  | .cmd => s.writeCmd v
  | .errcode => s
  | .tries => s
  | .signmax => { s with signmax := signmaxOf v }
  | .cfgWord c k => { s with cfg := s.cfg.set c (withWord (s.cfg.get c) k v) }
  | .bigWord i k => s.storeBig i k v
  | .infWord j => s.storePoint j { s.pt[j] with inf := v.getLsbD 0, infWritten := true }
  | .xWord j k => s.storePoint j { s.pt[j] with x := s.pt[j].x.storeWord k v }
  | .yWord j k => s.storePoint j { s.pt[j] with y := s.pt[j].y.storeWord k v }
  | .reserved => s

/-- A host write of a word (R66, R68). -/
def State.writeSlot (s : State) (slot : Slot) (v : Word) : State :=
  if s.drops slot then { s with wrdrop := true } else s.storeSlot v slot

/-- The address lies in the window (R60). -/
abbrev State.InWindow (s : State) (addr : Nat) : Prop :=
  s.par.wbase ≤ addr ∧ addr < s.par.wbase + Config.windowBytes

/-- A legal access: 32 bits wide at an offset that is a multiple of 4 (R71). -/
abbrev LegalAccess (off size : Nat) : Prop := size = 4 ∧ off % 4 = 0

/-- What the bus answers to an access before the block looks at the word, if that ends it: none while reset is asserted
(R271; log 11), not decoded outside the window (R65; log 12), the bus error (R71). -/
def State.turnedAway (s : State) (addr size : Nat) : Option BusResp :=
  if s.resetLine then some .noAnswer
  else if ¬ s.InWindow addr then some .notDecoded
  else if ¬ LegalAccess (addr - s.par.wbase) size then some .busError
  else none

/-- The bits of a word that an unspecified read leaves open: bit 0 of an INF word, whose bits 31 to 1 read as zero (R63), and
every bit of any other word (R22, R69; log 6). -/
def Slot.openBits : Slot → Word
  | .infWord _ => 1
  | .id | .param | .ctrl | .status | .cmd | .errcode | .tries | .signmax | .cfgWord _ _ | .bigWord _ _ | .xWord _ _
  | .yWord _ _ | .reserved => BitVec.allOnes 32

/-- What an unspecified read of the word answers at the counter n: a free value in the open bits, and zero elsewhere (R22,
R63, R69; log 6). -/
def Slot.freeRead (slot : Slot) (n : Nat) : Word := Config.freeWord n &&& slot.openBits

/-- A host read (R69, R72): no side effect on the block; an unspecified word is a free value (log 6). -/
def State.hostRead (s : State) (addr size : Nat) : State :=
  match s.turnedAway addr size with
  | some r => { s with resp := r }
  | none =>
    match s.readSlot (slotAt s.par (addr - s.par.wbase)) with
    | some w => { s with resp := .data w }
    | none =>
      { s with
          resp := .data ((slotAt s.par (addr - s.par.wbase)).freeRead s.draws.free)
          draws := { s.draws with free := s.draws.free + 1 } }

/-- A host write (R66 to R68, R71). -/
def State.hostWrite (s : State) (addr size : Nat) (v : Word) : State :=
  match s.turnedAway addr size with
  | some r => { s with resp := r }
  | none => { s.writeSlot (slotAt s.par (addr - s.par.wbase)) v with resp := .ack }

end Sys2Proof.Machine
end

