-- ==== Sys2Proof/Machine/Curve.lean ====
section
/-! DEFINITION. The elliptic-curve group (spec/41_ec_group.md): the checks R150 and R152, the operations ec_dbl R154, ec_add
R155 and ec_mul R156, and the commands ECADD, ECDBL, ECMUL, ECCHK. -/

namespace Sys2Proof.Machine

/-- The configuration check (R150). -/
abbrev CurveCfg.Good (c : CurveCfg) : Prop :=
  c.p % 2 = 1 ∧ 3 ≤ c.p ∧ c.n % 2 = 1 ∧ 3 ≤ c.n ∧ c.a < c.p ∧ c.b < c.p ∧ c.gx < c.p ∧ c.gy < c.p

/-- The operand range of a point: both coordinates below p; O has no range condition (R152). -/
def Point.inRange (p : Nat) : Point → Bool
  | .inf => true
  | .aff x y => x < p && y < p

/-- The point with a slope's third intersection: x3 = λ² - x1 - x2, y3 = λ(x1 - x3) - y1 (R154, R155). -/
def chordPoint (p lam x1 y1 x2 : Nat) : Point :=
  .aff (emod (lam * lam - x1 - x2) p) (emod (lam * ((x1 : Int) - emod (lam * lam - x1 - x2) p) - y1) p)

/-- ec_dbl(P) (R154). -/
def ecDbl (c : CurveCfg) : Point → Except ErrCode Point
  | .inf => .ok .inf
  | .aff x y =>
    if y = 0 then .ok .inf
    else
      match inv (emod (2 * y) c.p) c.p with
      | none => .error .notInvertible
      | some t => .ok (chordPoint c.p (emod ((3 * x * x + c.a) * t) c.p) x y x)

/-- ec_add(P, Q) for two affine points that differ (R155). -/
def ecChord (c : CurveCfg) (x1 y1 x2 y2 : Nat) : Except ErrCode Point :=
  if x1 = x2 then
    if emod (y1 + y2) c.p = 0 then .ok .inf else .error .notInvertible
  else
    match inv (emod (x1 - x2) c.p) c.p with
    | none => .error .notInvertible
    | some t => .ok (chordPoint c.p (emod ((y1 - y2) * t) c.p) x1 y1 x2)

/-- ec_add(P, Q) (R153, R155). -/
def ecAdd (c : CurveCfg) : Point → Point → Except ErrCode Point
  | .inf, q => .ok q
  | .aff x1 y1, .inf => .ok (.aff x1 y1)
  | .aff x1 y1, .aff x2 y2 =>
    if x1 = x2 ∧ y1 = y2 then ecDbl c (.aff x1 y1) else ecChord c x1 y1 x2 y2

/-- One turn of the loop of ec_mul: double, then add P where the bit is 1 (R156). -/
def ecMulStep (c : CurveCfg) (p : Point) (b : Bool) (acc : Point) : Except ErrCode Point :=
  match ecDbl c acc with
  | .error e => .error e
  | .ok dbl => if b then ecAdd c dbl p else .ok dbl

/-- The loop of ec_mul over the bits i - 1 down to 0 of k (R156). -/
def ecMulLoop (c : CurveCfg) (k : Nat) (p : Point) : Nat → Point → Except ErrCode Point
  | 0, acc => .ok acc
  | i + 1, acc =>
    match ecMulStep c p (bit k i) acc with
    | .error e => .error e
    | .ok next => ecMulLoop c k p i next

/-- ec_mul(k, P) (R156): k is used as given. -/
def ecMul (c : CurveCfg) (k : Nat) (p : Point) : Except ErrCode Point :=
  if k = 0 then .ok .inf else ecMulLoop c k p (bitlen k - 1) p

/-- Curve membership (R162): O is not an affine point, and coordinates out of range are not on the curve. -/
def onCurve (c : CurveCfg) : Point → Bool
  | .inf => false
  | .aff x y => x < c.p && y < c.p && emod (y * y) c.p == emod (x * x * x + c.a * x + c.b) c.p

/-- ECADD (R151, R157). -/
def pointAdd (c : CurveCfg) (p q : Point) : Except ErrCode Point :=
  if ¬ c.Good then .error .badConfig
  else if ¬ (p.inRange c.p ∧ q.inRange c.p) then .error .operandRange
  else ecAdd c p q

/-- ECDBL (R151, R158). -/
def pointDouble (c : CurveCfg) (p : Point) : Except ErrCode Point :=
  if ¬ c.Good then .error .badConfig
  else if ¬ p.inRange c.p then .error .operandRange
  else ecDbl c p

/-- ECMUL (R151, R161). -/
def pointMul (c : CurveCfg) (k : Nat) (p : Point) : Except ErrCode Point :=
  if ¬ c.Good then .error .badConfig
  else if ¬ p.inRange c.p then .error .operandRange
  else ecMul c k p

/-- ECCHK (R151, R162). -/
def pointCheck (c : CurveCfg) (p : Point) : Except ErrCode Bool :=
  if ¬ c.Good then .error .badConfig else .ok (onCurve c p)

/-- ECADD (R157). -/
def execEcadd (d p q : PReg) (s : State) : Host.Outcome State Fault Refusal :=
  withOperands (.ecadd d p q) s fun s o => s.completePoint d (pointAdd o.cfg (o.p p) (o.p q))

/-- ECDBL (R158). -/
def execEcdbl (d p : PReg) (s : State) : Host.Outcome State Fault Refusal :=
  withOperands (.ecdbl d p) s fun s o => s.completePoint d (pointDouble o.cfg (o.p p))

/-- ECMUL (R161). -/
def execEcmul (d : PReg) (k : BReg) (p : PReg) (s : State) : Host.Outcome State Fault Refusal :=
  withOperands (.ecmul d k p) s fun s o => s.completePoint d (pointMul o.cfg (o.b k) (o.p p))

/-- ECCHK (R162). -/
def execEcchk (p : PReg) (s : State) : Host.Outcome State Fault Refusal :=
  withOperands (.ecchk p) s fun s o => s.completeBool (pointCheck o.cfg (o.p p))

end Sys2Proof.Machine
end

