-- ==== Sys2Proof/Machine/Ecdsa.lean ====
section
/-! DEFINITION. The ECDSA controller (spec/42_ecdsa.md): ECDSA_KEYGEN R181, ECDSA_SIGN R183, ECDSA_VERIFY R185. -/

namespace Sys2Proof.Machine

/-- ECDSA_KEYGEN after the draw of d: the public point d·G (R181). -/
def keygenPoint (c : CurveCfg) (d : Nat) : Except ErrCode Point := ecMul c d c.g

/-- One attempt of the signing loop with nonce k; none where a degenerate value asks for another draw (R183). -/
def signAttempt (c : CurveCfg) (h d k : Nat) : Option (Nat × Nat) :=
  match ecMul c k c.g with
  | .error _ => none
  | .ok .inf => none
  | .ok (.aff x _) =>
    if emod x c.n = 0 then none
    else
      match inv k c.n with
      | none => none
      | some kinv =>
        if emod (kinv * (h + emod x c.n * d)) c.n = 0 then none
        else some (emod x c.n, emod (kinv * (h + emod x c.n * d)) c.n)

/-- What the signing loop ends with: the signature if an attempt gave one, the number of attempts started, and the ports
after the draws. -/
structure SignRun where
  sig : Option (Nat × Nat)
  tries : Nat
  draws : Draws
  deriving DecidableEq, Repr

/-- The signing loop with `left` attempts left after `tries` attempts; each attempt draws a nonce (R183). -/
def signLoop (c : CurveCfg) (h d : Nat) : Nat → Nat → Draws → SignRun
  | 0, tries, dr => ⟨none, tries, dr⟩
  | left + 1, tries, dr =>
    match signAttempt c h d (drawRng 1 c.n dr).1 with
    | some sig => ⟨some sig, tries + 1, (drawRng 1 c.n dr).2⟩
    | none => signLoop c h d left (tries + 1) (drawRng 1 c.n dr).2

/-- verify(h, r, s, Q) (R185): total, false on every malformed input (R186). -/
def verifySignature (c : CurveCfg) (h r sg : Nat) (q : Point) : Bool :=
  if ¬ (1 ≤ r ∧ r < c.n ∧ 1 ≤ sg ∧ sg < c.n) then false
  else
    match inv sg c.n with
    | none => false
    | some w =>
      if ¬ q.inRange c.p then false
      else
        match ecMul c (emod (h * w) c.n) c.g, ecMul c (emod (r * w) c.n) q with
        | .ok pa, .ok pb =>
          match ecAdd c pa pb with
          | .ok (.aff x _) => emod x c.n == r
          | .ok .inf => false
          | .error _ => false
        | _, _ => false

/-- ECDSA_KEYGEN (R181): one draw, made after the configuration check, and no retry. -/
def execEcdsaKeygen (priv : BReg) (pub : PReg) (s : State) : Host.Outcome State Fault Refusal :=
  withOperands (.ecdsaKeygen priv pub) s fun s o =>
    if ¬ o.cfg.Good then s.completeError .badConfig
    else
      let d := (drawRng 1 o.cfg.n s.draws).1
      let t := { s with draws := (drawRng 1 o.cfg.n s.draws).2 }
      match keygenPoint o.cfg d with
      | .error code => t.completeError code
      | .ok q => ((t.writeBig priv d).writePoint pub q).succeed

/-- ECDSA_SIGN (R180, R183): TRIES is written on every completion, 0 where an error precedes the loop (R39). -/
def execEcdsaSign (r sg h priv : BReg) (s : State) : Host.Outcome State Fault Refusal :=
  withOperands (.ecdsaSign r sg h priv) s fun s o =>
    if r = sg then (s.writeTries 0).completeError .destAlias
    else if ¬ o.cfg.Good then (s.writeTries 0).completeError .badConfig
    else if Config.digestBound ≤ o.b h then (s.writeTries 0).completeError .operandRange
    else
      let run := signLoop o.cfg (o.b h) (o.b priv) o.signmax.toNat 0 s.draws
      let t := { s with draws := run.draws }.writeTries run.tries
      match run.sig with
      | some (rv, sv) => ((t.writeBig r rv).writeBig sg sv).succeed
      | none => t.completeError .retryExhausted

/-- ECDSA_VERIFY after its operands are read (R180, R185). -/
def ecdsaVerify (c : CurveCfg) (h r sg : Nat) (q : Point) : Except ErrCode Bool :=
  if ¬ c.Good then .error .badConfig
  else if Config.digestBound ≤ h then .error .operandRange
  else .ok (verifySignature c h r sg q)

/-- ECDSA_VERIFY (R185). -/
def execEcdsaVerify (h r sg : BReg) (pub : PReg) (s : State) : Host.Outcome State Fault Refusal :=
  withOperands (.ecdsaVerify h r sg pub) s fun s o =>
    s.completeBool (ecdsaVerify o.cfg (o.b h) (o.b r) (o.b sg) (o.p pub))

end Sys2Proof.Machine
end

