-- ==== Sys2Proof/Machine/Modular.lean ====
section
/-! DEFINITION. The modular group (spec/40_modular_arithmetic.md): NOP, MODADD, MODSUB, MODMUL, MONTMUL, MODRED, MODINV,
MODEXP. Each computes on naturals and answers a result in [0, m) or an error. -/

namespace Sys2Proof.Machine

/-- Modulus class ODD: m odd and m ≥ 3 (R111). -/
abbrev OddModulus (m : Nat) : Prop := m % 2 = 1 ∧ 3 ≤ m

/-- MODADD (R116). -/
def modAdd (a b m : Nat) : Except ErrCode Nat :=
  if 1 ≤ m then .ok (emod (a + b) m) else .error .badModulus

/-- MODSUB (R117). -/
def modSub (a b m : Nat) : Except ErrCode Nat :=
  if 1 ≤ m then .ok (emod (a - b) m) else .error .badModulus

/-- MODMUL (R118). -/
def modMul (a b m : Nat) : Except ErrCode Nat :=
  if OddModulus m then .ok (emod (a * b) m) else .error .badModulus

/-- MONTMUL (R121): the modulus is checked before the operands. -/
def montMul (a b m : Nat) : Except ErrCode Nat :=
  if ¬ OddModulus m then .error .badModulus
  else if ¬ (a < m ∧ b < m) then .error .operandRange
  else .ok (emod (a * b * radixInv m) m)

/-- MODRED (R122). -/
def modRed (a m : Nat) : Except ErrCode Nat :=
  if 1 ≤ m then .ok (emod a m) else .error .badModulus

/-- MODINV (R123). -/
def modInv (a m : Nat) : Except ErrCode Nat :=
  if 2 ≤ m then
    match inv a m with
    | some x => .ok x
    | none => .error .notInvertible
  else .error .badModulus

/-- MODEXP (R124). -/
def modExp (base exp m : Nat) : Except ErrCode Nat :=
  if OddModulus m then .ok (powMod base exp m) else .error .badModulus

/-- NOP (R115). -/
def execNop (s : State) : Host.Outcome State Fault Refusal :=
  withOperands .nop s fun s _ => s.succeed

/-- MODADD (R116). -/
def execModadd (d a b m : BReg) (s : State) : Host.Outcome State Fault Refusal :=
  withOperands (.modadd d a b m) s fun s o => s.completeBig d (modAdd (o.b a) (o.b b) (o.b m))

/-- MODSUB (R117). -/
def execModsub (d a b m : BReg) (s : State) : Host.Outcome State Fault Refusal :=
  withOperands (.modsub d a b m) s fun s o => s.completeBig d (modSub (o.b a) (o.b b) (o.b m))

/-- MODMUL (R118). -/
def execModmul (d a b m : BReg) (s : State) : Host.Outcome State Fault Refusal :=
  withOperands (.modmul d a b m) s fun s o => s.completeBig d (modMul (o.b a) (o.b b) (o.b m))

/-- MONTMUL (R121). -/
def execMontmul (d a b m : BReg) (s : State) : Host.Outcome State Fault Refusal :=
  withOperands (.montmul d a b m) s fun s o => s.completeBig d (montMul (o.b a) (o.b b) (o.b m))

/-- MODRED (R122). -/
def execModred (d a m : BReg) (s : State) : Host.Outcome State Fault Refusal :=
  withOperands (.modred d a m) s fun s o => s.completeBig d (modRed (o.b a) (o.b m))

/-- MODINV (R123). -/
def execModinv (d a m : BReg) (s : State) : Host.Outcome State Fault Refusal :=
  withOperands (.modinv d a m) s fun s o => s.completeBig d (modInv (o.b a) (o.b m))

/-- MODEXP (R124). -/
def execModexp (d base exp m : BReg) (s : State) : Host.Outcome State Fault Refusal :=
  withOperands (.modexp d base exp m) s fun s o => s.completeBig d (modExp (o.b base) (o.b exp) (o.b m))

end Sys2Proof.Machine
end

