-- ==== Sys2Proof/Machine/Rsa.lean ====
section
/-! DEFINITION. The RSA controller (spec/43_rsa.md): RSA_KEYGEN R211, RSA_SIGN R213, RSA_VERIFY R215 with its strip mode
R216. -/

namespace Sys2Proof.Machine

/-- The primes that RSA_KEYGEN takes: 2 ≤ v < 2^PBITS (R211). -/
def goodPrime (par : Params) : Option Nat → Option Nat
  | none => none
  | some v => if 2 ≤ v ∧ v < 2 ^ par.pbits then some v else none

/-- The key of two primes: n = p·q and d = E⁻¹ mod (p-1)(q-1) (R211). -/
def rsaKey (p q : Nat) : Except ErrCode (Nat × Nat) :=
  if (p - 1) * (q - 1) < 2 then .error .expNotInvertible
  else
    match inv Config.rsaExponent ((p - 1) * (q - 1)) with
    | none => .error .expNotInvertible
    | some d => .ok (p * q, d)

/-- RSA_KEYGEN after the alias check: two draws, the second only after a good first (R211). -/
def rsaGenerate (par : Params) (dr : Draws) : Except ErrCode (Nat × Nat) × Draws :=
  match goodPrime par (drawPrime par dr).1 with
  | none => (.error .primeGenFail, (drawPrime par dr).2)
  | some p =>
    match goodPrime par (drawPrime par (drawPrime par dr).2).1 with
    | none => (.error .primeGenFail, (drawPrime par (drawPrime par dr).2).2)
    | some q => (rsaKey p q, (drawPrime par (drawPrime par dr).2).2)

/-- RSA_SIGN (R210, R213). -/
def rsaSignature (h d n : Nat) : Except ErrCode Nat :=
  if ¬ OddModulus n then .error .badModulus
  else if Config.digestBound ≤ h then .error .operandRange
  else .ok (powMod h d n)

/-- strip_match(cand, h): the bytes after the first zero byte are the 32 digest bytes (R216). -/
def stripMatch (cand h : Nat) : Bool :=
  match (minimalBytes cand).dropWhile (· != 0) with
  | [] => false
  | _ :: tail => tail == bytesOfLength 32 h

/-- RSA_VERIFY (R210, R215). -/
def rsaVerify (strip : Bool) (h sig n : Nat) : Except ErrCode Bool :=
  if ¬ OddModulus n then .error .badModulus
  else if Config.digestBound ≤ h then .error .operandRange
  else if strip then .ok (stripMatch (powMod sig Config.rsaExponent n) h)
  else .ok (powMod sig Config.rsaExponent n == h)

/-- RSA_KEYGEN (R210, R211). -/
def execRsaKeygen (n d : BReg) (s : State) : Host.Outcome State Fault Refusal :=
  withOperands (.rsaKeygen n d) s fun s _ =>
    if n = d then s.completeError .destAlias
    else
      let t := { s with draws := (rsaGenerate s.par s.draws).2 }
      match (rsaGenerate s.par s.draws).1 with
      | .error code => t.completeError code
      | .ok (nv, dv) => ((t.writeBig n nv).writeBig d dv).succeed

/-- RSA_SIGN (R213). -/
def execRsaSign (sig h d n : BReg) (s : State) : Host.Outcome State Fault Refusal :=
  withOperands (.rsaSign sig h d n) s fun s o => s.completeBig sig (rsaSignature (o.b h) (o.b d) (o.b n))

/-- RSA_VERIFY (R215). -/
def execRsaVerify (strip : Bool) (h sig n : BReg) (s : State) : Host.Outcome State Fault Refusal :=
  withOperands (.rsaVerify strip h sig n) s fun s o => s.completeBool (rsaVerify strip (o.b h) (o.b sig) (o.b n))

end Sys2Proof.Machine
end

