-- ==== Sys2Proof/Machine/Dispatch.lean ====
section
/-! DEFINITION. One arm per command: the completion of a decoded command (spec/10_state.md R29). -/

namespace Sys2Proof.Machine

def exec (i : Instr) (s : State) : Host.Outcome State Fault Refusal :=
  match i with
  | .nop => Sys2Proof.Machine.execNop s
  | .modadd d a b m => Sys2Proof.Machine.execModadd d a b m s
  | .modsub d a b m => Sys2Proof.Machine.execModsub d a b m s
  | .modmul d a b m => Sys2Proof.Machine.execModmul d a b m s
  | .montmul d a b m => Sys2Proof.Machine.execMontmul d a b m s
  | .modred d a m => Sys2Proof.Machine.execModred d a m s
  | .modinv d a m => Sys2Proof.Machine.execModinv d a m s
  | .modexp d base exp m => Sys2Proof.Machine.execModexp d base exp m s
  | .ecadd d p q => Sys2Proof.Machine.execEcadd d p q s
  | .ecdbl d p => Sys2Proof.Machine.execEcdbl d p s
  | .ecmul d k p => Sys2Proof.Machine.execEcmul d k p s
  | .ecchk p => Sys2Proof.Machine.execEcchk p s
  | .ecdsaKeygen priv pub => Sys2Proof.Machine.execEcdsaKeygen priv pub s
  | .ecdsaSign r sg h priv => Sys2Proof.Machine.execEcdsaSign r sg h priv s
  | .ecdsaVerify h r sg pub => Sys2Proof.Machine.execEcdsaVerify h r sg pub s
  | .rsaKeygen n d => Sys2Proof.Machine.execRsaKeygen n d s
  | .rsaSign sig h d n => Sys2Proof.Machine.execRsaSign sig h d n s
  | .rsaVerify strip h sig n => Sys2Proof.Machine.execRsaVerify strip h sig n s

end Sys2Proof.Machine
end

