-- ==== Sys2Proof/Machine/Sequencer.lean ====
section
/-! DEFINITION. The sequencer's completion step (spec/10_state.md R29), one step of the world outside
(spec/70_reset_and_hazards.md R271, R284), and how a command word is placed so that it runs next. -/

namespace Sys2Proof.Machine

/-- The completion of a command word (R29, R96): Illegal and Reserved words complete with their error and no other effect. -/
def completeWord (w : Word) (s : State) : Host.Outcome State Fault Refusal :=
  match decode w with
  | .illegal => .next (s.completeError .illegalOpcode)
  | .reserved _ => .next (s.completeError .reservedField)
  | .cmd i => exec i s

/-- The sequencer's turn: in BUSY the completion step; in IDLE there is nothing to complete (R29; log 2). -/
def sequencerTurn (s : State) : Host.Outcome State Fault Refusal :=
  match s.phase with
  | .idle => .next s
  | .busy w _ => completeWord w s

/-- One input taken: a host access, the sequencer's turn, or the reset line (R20, R271, R284). -/
def takeInput (s : State) : Input → Host.Outcome State Fault Refusal
  | .read addr size => .next (s.hostRead addr size)
  | .write addr size v => .next (s.hostWrite addr size v)
  | .complete => sequencerTurn s
  | .resetAssert => .next s.assertReset
  | .resetRelease => .next s.releaseReset

/-- The step: the next input of the list; when the list is empty the world outside is silent and the sequencer has its turn,
so that a BUSY phase always ends (R283; log 1, log 2). -/
def nextStep (s : State) : Host.Outcome State Fault Refusal :=
  match s.inputs with
  | [] => sequencerTurn s
  | e :: rest => takeInput { s with inputs := rest } e

/-- The state in which the host has just written w to CMD in IDLE and the sequencer moves next: acceptance as R67 says, and
the completion in front of the other inputs (log 13). -/
def placeCommand (s : State) (w : Word) : State :=
  { s.accept w with resetLine := false, inputs := .complete :: s.inputs }

end Sys2Proof.Machine
end

