-- ==== Sys2Proof/Machine/Step.lean ====
section
/-! DEFINITION. The step of the machine, and the placing of a command word where the next step runs it. -/

namespace Sys2Proof.Machine

/-- One step: a host access, a completion, or a change of the reset line (spec/70_reset_and_hazards.md R284). -/
def step (s : State) : Host.Outcome State Fault Refusal := nextStep s

/-- The command word w, a number of nbits bits, accepted so that the very next step completes it (log 13). -/
def State.withFetchWord (s : State) (nbits w : Nat) : State := placeCommand s (BitVec.ofNat 32 (w % 2 ^ nbits))

end Sys2Proof.Machine
end

