-- ==== Sys2Proof/Machine/HostProgram.lean ====
section
/-! DEFINITION. The host's side as lists of inputs: the pseudo-operations of spec/30_encoding.md R100, the digest layout of
spec/20_memory.md R70, and the boot sequence of spec/70_reset_and_hazards.md R274. They add nothing to the machine: they say
which inputs a host program is. -/

namespace Sys2Proof.Machine

/-- WR off, v (R100). -/
def wr (par : Params) (off : Nat) (v : Word) : Input := .write (par.wbase + off) 4 v

/-- RD r, off (R100); the answer is `resp` after the step. -/
def rd (par : Params) (off : Nat) : Input := .read (par.wbase + off) 4

/-- The offset of word k of Bi (R62). -/
def bigOff (i : BReg) (k : Nat) : Nat := 0x2000 + 0x200 * i.val + 4 * k

/-- The offset of the INF word of Pj (R63). -/
def infOff (j : PReg) : Nat := 0x4000 + 0x800 * j.val

/-- The offset of word k of the X of Pj (R63). -/
def xOff (j : PReg) (k : Nat) : Nat := 0x4200 + 0x800 * j.val + 4 * k

/-- The offset of word k of the Y of Pj (R63). -/
def yOff (j : PReg) (k : Nat) : Nat := 0x4400 + 0x800 * j.val + 4 * k

/-- The index c of a configuration register (R61). -/
def cfgIndex : CfgReg → Nat
  | .p => 0
  | .a => 1
  | .b => 2
  | .n => 3
  | .gx => 4
  | .gy => 5

/-- The offset of word k of configuration register c (R64). -/
def cfgOff (c : CfgReg) (k : Nat) : Nat := 0x1000 + 0x200 * cfgIndex c + 4 * k

/-- WRBIG Bi, v (R100). -/
def wrBig (par : Params) (i : BReg) (v : Nat) : List Input :=
  (List.range par.words).map fun k => wr par (bigOff i k) (wordOf v k)

/-- RDBIG r, Bi: the reads (R100). -/
def rdBig (par : Params) (i : BReg) : List Input :=
  (List.range par.words).map fun k => rd par (bigOff i k)

/-- RDBIG r, Bi: the value of the words read, word 0 first (R100). -/
def valueOfWords : List Word → Nat
  | [] => 0
  | w :: rest => w.toNat + 2 ^ 32 * valueOfWords rest

/-- WRPT Pj, Q (R100). -/
def wrPt (par : Params) (j : PReg) : Point → List Input
  | .inf => [wr par (infOff j) 1]
  | .aff x y =>
    wr par (infOff j) 0 ::
      (List.range par.words).flatMap fun k => [wr par (xOff j k) (wordOf x k), wr par (yOff j k) (wordOf y k)]

/-- WRCFG c, v (R100). -/
def wrCfg (par : Params) (c : CfgReg) (v : Nat) : List Input :=
  (List.range par.words).map fun k => wr par (cfgOff c k) (wordOf v k)

/-- WAIT, as it goes when the sequencer completes after `polls` reads that still see BUSY (R100, R283). -/
def wait (par : Params) (polls : Nat) : List Input :=
  List.replicate polls (rd par 0x00C) ++ [.complete, rd par 0x00C]

/-- RUN cmd (R100). -/
def runCmd (par : Params) (polls : Nat) (i : Instr) : List Input := wr par 0x010 (encode i) :: wait par polls

/-- The digest h of its bytes d[0] to d[31], first byte most significant (R70). -/
def digestValue (d : List Byte) : Nat := d.foldl (fun h x => 256 * h + x.toNat) 0

/-- The recommended boot sequence after reset is released (R274): probe ID and PARAM, write a configuration if one is wanted,
lock it if asked, write SIGNMAX if asked, clear the write-1-to-clear flags, enable the interrupt if asked. -/
def bootSequence (par : Params) (cfg : Option CurveCfg) (lock : Bool) (signmax : Option Word) (irq : Bool) : List Input :=
  [rd par 0x000, rd par 0x004] ++
    (match cfg with
      | none => []
      | some c =>
        [CfgReg.p, .a, .b, .n, .gx, .gy].flatMap fun r => wrCfg par r (c.get r)) ++
    (if lock then [wr par 0x008 2] else []) ++
    (match signmax with
      | none => []
      | some v => [wr par 0x01C v]) ++
    [wr par 0x00C 0x32] ++
    (if irq then [wr par 0x008 1] else [])

end Sys2Proof.Machine
end

