-- ==== Sys2Proof/Machine/ModelRun.lean ====
section
/-! DEFINITION. The model fault UNWRITTEN_OPERAND (spec/10_state.md R22, spec/60_exceptions.md R245, spec/70_reset_and_hazards.md
R273) and the runs that end at it (R284). `step` is the hardware, which computes on there; `modelStep` is the step in the
terms in which the spec states results, which stops there (log 7). -/

namespace Sys2Proof.Machine

/-- The model-level faults of R245. -/
inductive ModelFault where
  /-- UNWRITTEN_OPERAND, naming the command: raised by `modelStep` at the completion step of a command that needs an unwritten
  word (R22, R245, R273). Safe: nothing can be proved of what the hardware computes there. -/
  | unwrittenOperand (i : Instr)
  deriving DecidableEq, Repr

/-- The word whose completion the next step is: the latched word, when the sequencer has the next turn (R29, R283). -/
def State.completing (s : State) : Option Word :=
  match s.phase, s.inputs with
  | .busy w _, [] => some w
  | .busy w _, .complete :: _ => some w
  | _, _ => none

/-- The command that a word stands for, if it needs an unwritten word; an illegal or reserved word reads none (R22). -/
def State.unwrittenNeed (s : State) (w : Word) : Option Instr :=
  match decode w with
  | .illegal => none
  | .reserved _ => none
  | .cmd i => if operandsWritten s.par s.operands i then none else some i

/-- The command at whose completion UNWRITTEN_OPERAND is taken in the next step, if it is (R245). -/
def State.modelFault (s : State) : Option Instr := s.completing.bind s.unwrittenNeed

/-- An outcome of the hardware's step, which never faults, as an outcome of the model's. -/
def asModelOutcome : Host.Outcome State Fault Refusal → Host.Outcome State ModelFault Refusal
  | .next s => .next s
  | .fault r => nomatch r
  | .refused r => .refused r

/-- One step as R245 and R273 order it: UNWRITTEN_OPERAND is taken at the completion step, after the decode checks and before
DEST_ALIAS and every later check, so that ERRCODE, DONE and the destinations are never set; every other step is the
hardware's. -/
def modelStep (s : State) : Host.Outcome State ModelFault Refusal :=
  match s.modelFault with
  | some i => .fault (.unwrittenOperand i)
  | none => asModelOutcome (step s)

/-- The machine of the spec's runs. -/
def modelCore : Host.Core :=
  { State := State, Fault := ModelFault, Refusal := Refusal, step := modelStep, reset := State.reset }

/-- A run of k steps, which ends as a fault where it reaches UNWRITTEN_OPERAND (R284). -/
def modelRun (k : Nat) (s : State) : Host.Outcome State ModelFault Refusal := modelCore.run k s

/-- A run of k steps from s has the end state t: it met no fault, and its last state has the phase IDLE (R284). -/
def EndsIn (k : Nat) (s t : State) : Prop := modelRun k s = .next t ∧ t.phase = .idle

end Sys2Proof.Machine
end

