-- ==== Sys2Proof/Safety.lean ====
section
/-! DEFINITION. The terms that claims use: the invariant of the state, what a completed command leaves, what a step leaves
unchanged, which registers a command writes and which errors it may raise. -/

namespace Sys2Proof.Machine

/-! The invariant. -/

/-- A register that holds a natural below 2^OPW (R21), with flags for its own words only, and zero in every word that is
unwritten (the model's canonical form, by the reset value of log 8: equal registers are equal data). -/
structure BigReg.Wf (par : Params) (r : BigReg) : Prop where
  bound : r.value < 2 ^ par.opw
  flags : ∀ k, r.written.getLsbD k = true → k < par.words
  canonical : ∀ k, r.written.getLsbD k = false → wordOf r.value k = 0

/-- A point register both of whose coordinates are well formed (R24). -/
structure PointReg.Wf (par : Params) (r : PointReg) : Prop where
  x : r.x.Wf par
  y : r.y.Wf par

/-- Every configuration register holds a natural below 2^OPW (R37). -/
structure CurveCfg.Fits (par : Params) (c : CurveCfg) : Prop where
  p : c.p < 2 ^ par.opw
  a : c.a < 2 ^ par.opw
  b : c.b < 2 ^ par.opw
  n : c.n < 2 ^ par.opw
  gx : c.gx < 2 ^ par.opw
  gy : c.gy < 2 ^ par.opw

/-- What holds while a command runs: CMD is its word, the snapshot is what the registers still hold, because every data
write is dropped, and DONE, ERRCODE and RESULT are as acceptance left them (R29, R67, R68); that
reset is not asserted then is the model's level of log 11. -/
def State.BusyOk (s : State) : Prop :=
  match s.phase with
  | .idle => True
  | .busy w snap =>
    w = s.cmd ∧ snap = s.liveSnapshot ∧ s.done = false ∧ s.err = .none ∧ s.result = false ∧ s.resetLine = false

/-- The invariant of the state. -/
structure State.Inv (s : State) : Prop where
  legal : s.par.Legal
  big : ∀ i : BReg, s.big[i].Wf s.par
  pt : ∀ j : PReg, s.pt[j].Wf s.par
  cfg : s.cfg.Fits s.par
  signmax : s.signmax ≠ 0
  result : s.result = true → s.err = .none
  busy : s.BusyOk

/-! What a completed command leaves. -/

/-- What no command's completion changes: the parameters, the configuration, CTRL, CMDOVR and WRDROP, CMD, SIGNMAX, the
reset line, and the world outside but for the draws. -/
structure SameOthers (s t : State) : Prop where
  par : t.par = s.par
  cfg : t.cfg = s.cfg
  ie : t.ie = s.ie
  lock : t.lock = s.lock
  cmdovr : t.cmdovr = s.cmdovr
  wrdrop : t.wrdrop = s.wrdrop
  cmd : t.cmd = s.cmd
  signmax : t.signmax = s.signmax
  resetLine : t.resetLine = s.resetLine
  inputs : t.inputs = s.inputs
  resp : t.resp = s.resp

/-- As `SameOthers`, and no unwritten operand was recorded (R245; log 7). -/
structure SameElse (s t : State) : Prop extends SameOthers s t where
  unwrittenOperand : t.unwrittenOperand = s.unwrittenOperand

/-- The flags after a completion: ERRCODE, RESULT, DONE = 1 and IDLE (R29). -/
structure CompletedWith (t : State) (code : ErrCode) (result : Bool) : Prop where
  err : t.err = code
  result : t.result = result
  done : t.done = true
  phase : t.phase = .idle

/-- Every big register outside the list is unchanged, its written flags among it. -/
def BigSameExcept (s t : State) (ds : List BReg) : Prop := ∀ r : BReg, r ∉ ds → t.big[r] = s.big[r]

/-- Every point register outside the list is unchanged, its written flags among it. -/
def PtSameExcept (s t : State) (ds : List PReg) : Prop := ∀ r : PReg, r ∉ ds → t.pt[r] = s.pt[r]

/-- Big register d holds v and every word of it is written (R21, R22). -/
structure HoldsBig (t : State) (d : BReg) (v : Nat) : Prop where
  value : t.big[d].value = v
  written : ∀ k < t.par.words, t.big[d].written.getLsbD k = true

/-- Point register d holds the point as a command writes it: INF, X and Y as R25 says, every word written. -/
structure HoldsPoint (t : State) (d : PReg) (q : Point) : Prop where
  inf : t.pt[d].inf = true ↔ q = .inf
  coords : q = .inf ∧ t.pt[d].x.value = 0 ∧ t.pt[d].y.value = 0 ∨ q = .aff t.pt[d].x.value t.pt[d].y.value
  infWritten : t.pt[d].infWritten = true
  xWritten : ∀ k < t.par.words, t.pt[d].x.written.getLsbD k = true
  yWritten : ∀ k < t.par.words, t.pt[d].y.written.getLsbD k = true

/-- `exec i s` answers a next state in which the command succeeded, B[d] holds v, RESULT is 0 and nothing else changed. -/
def WritesBig (i : Instr) (s : State) (d : BReg) (v : Nat) : Prop :=
  ∃ t, exec i s = .next t ∧ HoldsBig t d v ∧ BigSameExcept s t [d] ∧ t.pt = s.pt ∧ t.tries = s.tries ∧
    t.draws = s.draws ∧ SameElse s t ∧ CompletedWith t .none false

/-- `exec i s` answers a next state in which the command succeeded, Pt[d] holds q, RESULT is 0 and nothing else changed. -/
def WritesPoint (i : Instr) (s : State) (d : PReg) (q : Point) : Prop :=
  ∃ t, exec i s = .next t ∧ HoldsPoint t d q ∧ PtSameExcept s t [d] ∧ t.big = s.big ∧ t.tries = s.tries ∧
    t.draws = s.draws ∧ SameElse s t ∧ CompletedWith t .none false

/-- `exec i s` answers a next state in which the command succeeded with RESULT = b and no register changed. -/
def AnswersBool (i : Instr) (s : State) (b : Bool) : Prop :=
  ∃ t, exec i s = .next t ∧ t.big = s.big ∧ t.pt = s.pt ∧ t.tries = s.tries ∧ t.draws = s.draws ∧ SameElse s t ∧
    CompletedWith t .none b

/-- `exec i s` answers a next state in which the command completed with the error code and changed nothing else (R240). -/
def FailsWith (i : Instr) (s : State) (code : ErrCode) : Prop :=
  ∃ t, exec i s = .next t ∧ t.big = s.big ∧ t.pt = s.pt ∧ t.tries = s.tries ∧ t.draws = s.draws ∧ SameElse s t ∧
    CompletedWith t code false

/-- The completion of the word w answers a next state in which the word completed with the error code and changed nothing
else (R240). -/
def WordFailsWith (w : Word) (s : State) (code : ErrCode) : Prop :=
  ∃ t, completeWord w s = .next t ∧ t.big = s.big ∧ t.pt = s.pt ∧ t.tries = s.tries ∧ t.draws = s.draws ∧
    SameElse s t ∧ CompletedWith t code false

/-- The hypotheses on the state under which a command computes with specified values only: legal parameters, and every word
that the command needs written (R10, R11, R22, R273). -/
abbrev State.Ready (s : State) (i : Instr) : Prop :=
  s.par.Legal ∧ operandsWritten s.par s.operands i = true

/-- Nothing of the block changed: only the inputs to come, the draws and the bus response may differ. -/
def SameBlock (s t : State) : Prop := t = { s with inputs := t.inputs, draws := t.draws, resp := t.resp }

/-! The nonces of the signing loop. -/

/-- The ports after j draws of the random port. -/
def drawsAfter (lo hi : Nat) : Nat → Draws → Draws
  | 0, d => d
  | j + 1, d => drawsAfter lo hi j (drawRng lo hi d).2

/-- The answer to draw number j (from 0) of the random port (R277). -/
def nonceAt (lo hi j : Nat) (d : Draws) : Nat := (drawRng lo hi (drawsAfter lo hi j d)).1

/-! What each command may write and raise, from the tables of the spec. -/

/-- The big registers that a command writes (R95). -/
def bigDests : Instr → List BReg
  | .nop => []
  | .modadd d _ _ _ => [d]
  | .modsub d _ _ _ => [d]
  | .modmul d _ _ _ => [d]
  | .montmul d _ _ _ => [d]
  | .modred d _ _ => [d]
  | .modinv d _ _ => [d]
  | .modexp d _ _ _ => [d]
  | .ecadd _ _ _ => []
  | .ecdbl _ _ => []
  | .ecmul _ _ _ => []
  | .ecchk _ => []
  | .ecdsaKeygen priv _ => [priv]
  | .ecdsaSign r sg _ _ => [r, sg]
  | .ecdsaVerify _ _ _ _ => []
  | .rsaKeygen n d => [n, d]
  | .rsaSign sig _ _ _ => [sig]
  | .rsaVerify _ _ _ _ => []

/-- The point registers that a command writes (R95). -/
def pointDests : Instr → List PReg
  | .nop => []
  | .modadd _ _ _ _ => []
  | .modsub _ _ _ _ => []
  | .modmul _ _ _ _ => []
  | .montmul _ _ _ _ => []
  | .modred _ _ _ => []
  | .modinv _ _ _ => []
  | .modexp _ _ _ _ => []
  | .ecadd d _ _ => [d]
  | .ecdbl d _ => [d]
  | .ecmul d _ _ => [d]
  | .ecchk _ => []
  | .ecdsaKeygen _ pub => [pub]
  | .ecdsaSign _ _ _ _ => []
  | .ecdsaVerify _ _ _ _ => []
  | .rsaKeygen _ _ => []
  | .rsaSign _ _ _ _ => []
  | .rsaVerify _ _ _ _ => []

/-- The commands that answer a boolean (R40, R95). -/
def answersBoolean : Opcode → Bool
  | .ecchk => true
  | .ecdsaVerify => true
  | .rsaVerify => true
  | .nop | .modadd | .modsub | .modmul | .montmul | .modred | .modinv | .modexp | .ecadd | .ecdbl | .ecmul
  | .ecdsaKeygen | .ecdsaSign | .rsaKeygen | .rsaSign => false

/-- The commands that each error of a decoded command is raised by: the last column of R241. -/
def raisedBy : ErrCode → List Opcode
  | .none => opcodes
  | .illegalOpcode => []
  | .reservedField => []
  | .destAlias => [.ecdsaSign, .rsaKeygen]
  | .badConfig => [.ecadd, .ecdbl, .ecmul, .ecchk, .ecdsaKeygen, .ecdsaSign, .ecdsaVerify]
  | .badModulus => [.modadd, .modsub, .modmul, .montmul, .modred, .modinv, .modexp, .rsaSign, .rsaVerify]
  | .operandRange => [.montmul, .ecadd, .ecdbl, .ecmul, .ecdsaSign, .ecdsaVerify, .rsaSign, .rsaVerify]
  | .notInvertible => [.modinv, .ecadd, .ecdbl, .ecmul, .ecdsaKeygen]
  | .primeGenFail => [.rsaKeygen]
  | .expNotInvertible => [.rsaKeygen]
  | .retryExhausted => [.ecdsaSign]

/-! Runs. -/

/-- The state of a run of the hardware's step is an end state in the spec's terms when the phase is IDLE and no command of the
run needed an unwritten word: `modelRun` then reaches it too (R245, R284). -/
abbrev State.Ended (s : State) : Prop := s.phase = .idle ∧ s.unwrittenOperand = none

/-- `k` steps of the machine as the hardware makes them; `modelRun` is the run that ends at UNWRITTEN_OPERAND (R284). -/
def runSteps (k : Nat) (s : State) : Host.Outcome State Fault Refusal := Host.Core.run Sys2Proof.core k s

end Sys2Proof.Machine
end

