-- ==== Sys2Proof/Certificates/Slice0/Obligations.lean ====
section
/-! DEFINITION. The statements for the provers, one for each entry of OBLIGATIONS.json. -/

open Sys2Proof Sys2Proof.Machine

/-! Encoding. -/

/-- R101: the spec's worked encodings, its reserved example and its illegal example. -/
def Obligations.WorkedEncodingsDecode : Prop :=
  decode 0x0CC48000 = .cmd (.modmul 3 1 2 0) ∧ encode (.modmul 3 1 2 0) = 0x0CC48000 ∧
  decode 0x48100080 = .cmd (.ecmul 1 4 0) ∧ encode (.ecmul 1 4 0) = 0x48100080 ∧
  decode 0x85449800 = .cmd (.ecdsaSign 5 6 1 2) ∧ encode (.ecdsaSign 5 6 1 2) = 0x85449800 ∧
  decode 0xC8048C01 = .cmd (.rsaVerify true 1 2 3) ∧ encode (.rsaVerify true 1 2 3) = 0xC8048C01 ∧
  decode 0x00000001 = .reserved .nop ∧ (∀ s, WordFailsWith 0x00000001 s .reservedField) ∧
  decode 0xFC000000 = .illegal

/-- R90, R94, R96, R99: for every command with every operand, its word is well formed and decodes to it. -/
def Obligations.DecodeUndoesEncode : Prop :=
  ∀ i : Instr, i.WellFormed ∧ decode (encode i) = .cmd i

/-- R93, R94, R96: a word decodes to one command only if it is that command's word; no other word selects it. -/
def Obligations.EncodeUndoesDecode : Prop :=
  ∀ (w : Word) (i : Instr), decode w = .cmd i → encode i = w

/-- R94: a word selects the command of an opcode exactly when (w AND mask) = match. -/
def Obligations.MaskAndMatchSelectTheCommand : Prop :=
  ∀ (w : Word) (o : Opcode),
    (∃ i, decode w = .cmd i ∧ opcode i = o) ↔ w &&& (row o).mask = (row o).pattern

/-- R93: an assigned OP with a non-zero unused field completes with RESERVED_FIELD and no other effect; with its unused
fields zero every value of its used fields is a command. -/
def Obligations.UnusedFieldsMustBeZero : Prop :=
  ∀ (w : Word) (s : State), (unpack w).opAssigned = true →
    ((unpack w).unusedZero = false → WordFailsWith w s .reservedField) ∧
    ((unpack w).unusedZero = true → ∃ i, decode w = .cmd i)

/-- R92, R96, R97: exactly the words with an unassigned OP are illegal, and they complete with ILLEGAL_OPCODE and no other
effect. -/
def Obligations.UnassignedOpcodeIsIllegal : Prop :=
  ∀ (w : Word) (s : State),
    ((unpack w).opAssigned = false ↔ decode w = .illegal) ∧
    ((unpack w).opAssigned = false → WordFailsWith w s .illegalOpcode)

/-! The step. -/

/-- A step runs the decoded command: in BUSY with a word that decodes, when the sequencer moves next (the input complete is
next, or no input is listed, which is the model's choice of log 2), the step is exec of the command, on the snapshot; a word
that is illegal or reserved completes with ILLEGAL_OPCODE or RESERVED_FIELD and no other effect. -/
def Obligations.StepRunsTheDecodedCommand : Prop :=
  ∀ (s : State) (w : Word) (snap : Snapshot), s.phase = .busy w snap →
    (∀ i, decode w = .cmd i →
      s.operands = snap ∧
      (s.inputs = [] → step s = exec i s) ∧
      (∀ rest, s.inputs = .complete :: rest → step s = exec i { s with inputs := rest })) ∧
    (decode w = .illegal →
      (s.inputs = [] → step s = .next (s.completeError .illegalOpcode)) ∧
      (∀ rest, s.inputs = .complete :: rest →
        step s = .next ({ s with inputs := rest }.completeError .illegalOpcode))) ∧
    (∀ o, decode w = .reserved o →
      (s.inputs = [] → step s = .next (s.completeError .reservedField)) ∧
      (∀ rest, s.inputs = .complete :: rest →
        step s = .next ({ s with inputs := rest }.completeError .reservedField)))

/-- The placed word runs next: acceptance of the word, with the other inputs kept (log 13). -/
def Obligations.PlacedWordRunsNext : Prop :=
  ∀ (s : State) (w : Word) (i : Instr), decode w = .cmd i →
    step (s.withFetchWord 32 w.toNat) = exec i { s.accept w with resetLine := false }

/-- R67: a host write of v to CMD is accepted in IDLE, with the snapshot of every register; in BUSY it is dropped and flagged
and everything else is unchanged. Every word is accepted; an illegal one completes with its error. -/
def Obligations.CmdWriteAcceptsOrOverruns : Prop :=
  ∀ (s : State) (v : Word) (rest : List Input), s.resetLine = false →
    s.inputs = .write (s.par.wbase + 0x010) 4 v :: rest →
    (s.phase = .idle →
      step s = .next { s with
        cmd := v, done := false, err := .none, result := false,
        phase := .busy v ⟨s.big, s.pt, s.cfg, s.signmax⟩, inputs := rest, resp := .ack }) ∧
    (∀ w snap, s.phase = .busy w snap →
      step s = .next { s with cmdovr := true, inputs := rest, resp := .ack }) ∧
    (∀ u, decode v = .illegal → WordFailsWith v u .illegalOpcode)

/-! Reset. -/

/-- R270, R271, R272: asserting reset is one step that sets every item to its reset value, whatever the phase; releasing it is
one step that changes nothing else, so that the phase is IDLE and the next write of CMD can be accepted; and State.reset is
the state after both (in the reference configuration, log 3; reset as a level is log 11). -/
def Obligations.ResetSetsEveryItem : Prop :=
  (∀ (s : State) (rest : List Input), s.inputs = .resetAssert :: rest →
    ∃ t, step s = .next t ∧ t.par = s.par ∧
      (∀ (r : BReg) (k : Nat), t.big[r].written.getLsbD k = false) ∧
      (∀ r : PReg, t.pt[r].infWritten = false) ∧
      (∀ (r : PReg) (k : Nat), t.pt[r].x.written.getLsbD k = false ∧ t.pt[r].y.written.getLsbD k = false) ∧
      t.cfg =
        ⟨0xFFFFFFFFFFFFFFFFFFFFFFFFFFFFFFFFFFFFFFFFFFFFFFFFFFFFFFFEFFFFFC2F, 0, 7,
          0xFFFFFFFFFFFFFFFFFFFFFFFFFFFFFFFEBAAEDCE6AF48A03BBFD25E8CD0364141,
          0x79BE667EF9DCBBAC55A06295CE870B07029BFCDB2DCE28D959F2815B16F81798,
          0x483ADA7726A3C4655DA4FBFC0E1108A8FD17B448A68554199C47D08FFB10D4B8⟩ ∧
      t.readSlot .id = some 0x43534331 ∧
      t.readSlot .param = some (BitVec.ofNat 32 (s.par.pbits * 2 ^ 16 + s.par.opw)) ∧
      t.readSlot .ctrl = some 0 ∧ t.readSlot .status = some 0 ∧ t.readSlot .cmd = some 0 ∧
      t.readSlot .errcode = some 0 ∧ t.readSlot .tries = some 0 ∧ t.readSlot .signmax = some 0x10 ∧
      t.phase = .idle ∧ t.irq = false) ∧
  (∀ (s : State) (rest : List Input), s.inputs = .resetRelease :: rest →
    step s = .next { s with inputs := rest, resetLine := false }) ∧
  State.reset = { State.reset.assertReset with resetLine := false } ∧
  State.reset.readSlot .param = some 0x04000800

/-- The invariant holds at State.reset. Its clause that an unwritten word holds 0 is the model's own, by the reset value chosen
in log 8, and the parameters of State.reset are the reference configuration of log 3. -/
def Obligations.InvariantHoldsAtReset : Prop := State.reset.Inv

/-- The invariant: legal parameters, registers that hold naturals below 2^OPW, SIGNMAX never 0, RESULT = 1 only without an
error, and while BUSY the snapshot is what the registers still hold. Every step keeps it. Two of its clauses are the model's
own: that an unwritten word holds 0 (log 8), and that reset is not asserted while BUSY (log 11). -/
def Obligations.EveryStepKeepsTheInvariant : Prop :=
  ∀ s t : State, s.Inv → step s = .next t → t.Inv

/-- R31, R32: ID never changes and PARAM never changes, whatever the step does. -/
def Obligations.IdAndParamNeverChange : Prop :=
  ∀ s t : State, step s = .next t →
    t.readSlot .id = some 0x43534331 ∧ t.readSlot .param = s.readSlot .param ∧ t.par = s.par

/-! Completion and errors of every command. -/

/-- R22, R245, R273: a command that needs an unwritten word is the model fault UNWRITTEN_OPERAND, naming the command, taken
at its completion step, after decoding and before every other check; no other step faults, and every step that does not fault
is the hardware's. The words a command needs are every word of each big register that it reads, the INF word of each point
register that it reads, and that point's X and Y words where INF = 0.
The hardware's own step goes on there (R22: "the hardware computes with unspecified values"), as does the step of the model's
interface: every command completes, whatever is written, with DONE = 1 and the phase IDLE. Where a needed word is unwritten it
runs as it would on the snapshot with a free word in place of each unwritten word, and the first such command is recorded. How
the free words are numbered, and the record, are the model's choice (log 7). -/
def Obligations.UnwrittenOperandsAreFreeValues : Prop :=
  (∀ s : State,
    (∀ i, modelStep s = .fault (.unwrittenOperand i) ↔
      ∃ w snap, s.phase = .busy w snap ∧ decode w = .cmd i ∧ (s.inputs = [] ∨ ∃ rest, s.inputs = .complete :: rest) ∧
        operandsWritten s.par snap i = false) ∧
    ((∃ i, modelStep s = .fault (.unwrittenOperand i)) ∨ ∃ t, modelStep s = .next t ∧ step s = .next t)) ∧
  ∀ (i : Instr) (s : State), s.par.Legal →
    (operandsWritten s.par s.operands i = true ↔
      (∀ r ∈ bigSources i, ∀ k < s.par.words, s.operands.big[r].written.getLsbD k = true) ∧
      (∀ r ∈ pointSources i, s.operands.pt[r].infWritten = true ∧
        (s.operands.pt[r].inf = false → ∀ k < s.par.words,
          s.operands.pt[r].x.written.getLsbD k = true ∧ s.operands.pt[r].y.written.getLsbD k = true))) ∧
    (∃ t, exec i s = .next t ∧ t.done = true ∧ t.phase = .idle ∧
      (operandsWritten s.par s.operands i = true → t.unwrittenOperand = s.unwrittenOperand) ∧
      (operandsWritten s.par s.operands i = false → t.unwrittenOperand = some (s.unwrittenOperand.getD i))) ∧
    (∀ w snap, s.phase = .busy w snap → operandsWritten s.par snap i = false →
      exec i s = exec i { s.noteUnwritten i with phase := .busy w (snap.filled s.par s.draws.free) } ∧
      operandsWritten s.par (snap.filled s.par s.draws.free) i = true ∧
      (snap.filled s.par s.draws.free).cfg = snap.cfg ∧ (snap.filled s.par s.draws.free).signmax = snap.signmax ∧
      (∀ (r : BReg) (k : Nat), k < s.par.words →
        (snap.filled s.par s.draws.free).big[r].value / 2 ^ (32 * k) % 2 ^ 32 =
          if snap.big[r].written.getLsbD k then snap.big[r].value / 2 ^ (32 * k) % 2 ^ 32
          else (Config.freeWord (s.draws.free + 128 * r.val + k)).toNat) ∧
      (∀ r : PReg, (snap.filled s.par s.draws.free).pt[r].inf =
        if snap.pt[r].infWritten then snap.pt[r].inf
        else (Config.freeWord (s.draws.free + 2048 + 257 * r.val)).getLsbD 0) ∧
      (∀ (r : PReg) (k : Nat), k < s.par.words →
        (snap.filled s.par s.draws.free).pt[r].x.value / 2 ^ (32 * k) % 2 ^ 32 =
          (if snap.pt[r].x.written.getLsbD k then snap.pt[r].x.value / 2 ^ (32 * k) % 2 ^ 32
          else (Config.freeWord (s.draws.free + 2048 + 257 * r.val + (1 + k))).toNat) ∧
        (snap.filled s.par s.draws.free).pt[r].y.value / 2 ^ (32 * k) % 2 ^ 32 =
          (if snap.pt[r].y.written.getLsbD k then snap.pt[r].y.value / 2 ^ (32 * k) % 2 ^ 32
          else (Config.freeWord (s.draws.free + 2048 + 257 * r.val + (129 + k))).toNat)))

/-- R240: a completion with an error writes no destination, sets ERRCODE, clears RESULT, sets DONE and returns to IDLE; apart
from ERRCODE, STATUS and (for ECDSA_SIGN) TRIES the registers are as before. -/
def Obligations.ErrorsArePrecise : Prop :=
  ∀ (w : Word) (s t : State), completeWord w s = .next t → t.err ≠ .none →
    t.big = s.big ∧ t.pt = s.pt ∧ SameOthers s t ∧ t.result = false ∧ t.done = true ∧ t.phase = .idle ∧
    ((¬ ∃ i, decode w = .cmd i ∧ opcode i = .ecdsaSign) → t.tries = s.tries)

/-- R95: a command writes only the registers of its destination fields; every other register, the configuration, the control
and status registers other than ERRCODE, RESULT, DONE (and TRIES for ECDSA_SIGN) are unchanged, and only ECDSA_KEYGEN,
ECDSA_SIGN and RSA_KEYGEN draw at a port. With every needed word written the model's counter and its record of unwritten
operands are unchanged too (log 7). -/
def Obligations.CommandsWriteOnlyTheirDestinations : Prop :=
  ∀ (i : Instr) (s t : State), exec i s = .next t →
    BigSameExcept s t (bigDests i) ∧ PtSameExcept s t (pointDests i) ∧ SameOthers s t ∧
    (opcode i ≠ .ecdsaSign → t.tries = s.tries) ∧
    (operandsWritten s.par s.operands i = true → t.unwrittenOperand = s.unwrittenOperand) ∧
    (opcode i ≠ .ecdsaKeygen → opcode i ≠ .ecdsaSign → opcode i ≠ .rsaKeygen →
      t.draws.rng = s.draws.rng ∧ t.draws.prime = s.draws.prime ∧
      (operandsWritten s.par s.operands i = true → t.draws = s.draws))

/-- R40: after a completion RESULT can be 1 only for ECCHK, ECDSA_VERIFY and RSA_VERIFY, and only without an error. -/
def Obligations.ResultOnlyFromBooleanCommands : Prop :=
  ∀ (w : Word) (s t : State), completeWord w s = .next t → t.result = true →
    t.err = .none ∧ ∃ i, decode w = .cmd i ∧ answersBoolean (opcode i) = true

/-- R241: each error code is raised by the commands of its row only. -/
def Obligations.ErrorsAreRaisedByTheirCommands : Prop :=
  ∀ (w : Word) (s t : State), completeWord w s = .next t →
    (t.err = .illegalOpcode ↔ decode w = .illegal) ∧
    (t.err = .reservedField ↔ ∃ o, decode w = .reserved o) ∧
    (∀ i, decode w = .cmd i → opcode i ∈ raisedBy t.err)

/-- R39: only the completion of a word that decodes as ECDSA_SIGN, or reset, changes TRIES. -/
def Obligations.TriesChangesOnlyBySigning : Prop :=
  ∀ s t : State, step s = .next t → t.tries ≠ s.tries →
    (∃ rest, s.inputs = .resetAssert :: rest) ∨
    ∃ w snap i, s.phase = .busy w snap ∧ decode w = .cmd i ∧ opcode i = .ecdsaSign ∧ t.phase = .idle ∧ t.done = true

/-! The modular group. -/

/-- R115: NOP changes no register and completes without error; OP 0x00 with any other bit set is a reserved encoding. -/
def Obligations.NopChangesNoRegister : Prop :=
  (∀ s : State, AnswersBool .nop s false) ∧
  (∀ w : Word, (unpack w).op = 0 → w ≠ 0 → decode w = .reserved .nop)

/-- R116: MODADD on written operands: BAD_MODULUS when m = 0, and otherwise B[FA] holds (a + b) mod m, RESULT is 0 and nothing
else changes but the completion flags. -/
def Obligations.ModaddAddsModulo : Prop :=
  ∀ (d a b m : BReg) (s : State), s.Ready (.modadd d a b m) →
    (s.operands.b m = 0 → FailsWith (.modadd d a b m) s .badModulus) ∧
    (1 ≤ s.operands.b m →
      WritesBig (.modadd d a b m) s d ((s.operands.b a + s.operands.b b) % s.operands.b m))

/-- R117: MODSUB on written operands: BAD_MODULUS when m = 0, and otherwise B[FA] holds the residue v in [0, m) with
v + b ≡ a (mod m), RESULT is 0 and nothing else changes but the completion flags. -/
def Obligations.ModsubSubtractsModulo : Prop :=
  ∀ (d a b m : BReg) (s : State), s.Ready (.modsub d a b m) →
    (s.operands.b m = 0 → FailsWith (.modsub d a b m) s .badModulus) ∧
    (1 ≤ s.operands.b m → ∃ v, v < s.operands.b m ∧
      (v + s.operands.b b) % s.operands.b m = s.operands.b a % s.operands.b m ∧
      WritesBig (.modsub d a b m) s d v)

/-- R118: MODMUL on written operands: BAD_MODULUS when m is even or m < 3, and otherwise B[FA] holds a·b mod m, RESULT is 0 and
nothing else changes but the completion flags. -/
def Obligations.ModmulMultipliesModulo : Prop :=
  ∀ (d a b m : BReg) (s : State), s.Ready (.modmul d a b m) →
    (s.operands.b m % 2 = 0 ∨ s.operands.b m < 3 → FailsWith (.modmul d a b m) s .badModulus) ∧
    (s.operands.b m % 2 = 1 → 3 ≤ s.operands.b m →
      WritesBig (.modmul d a b m) s d (s.operands.b a * s.operands.b b % s.operands.b m))

/-- R121: MONTMUL on written operands: BAD_MODULUS as MODMUL, then OPERAND_RANGE when a ≥ m or b ≥ m, and otherwise B[FA] holds
the v in [0, m) with v·R(m) ≡ a·b (mod m), RESULT is 0 and nothing else changes but the completion flags. -/
def Obligations.MontmulIsTheMontgomeryProduct : Prop :=
  ∀ (d a b m : BReg) (s : State), s.Ready (.montmul d a b m) →
    (s.operands.b m % 2 = 0 ∨ s.operands.b m < 3 → FailsWith (.montmul d a b m) s .badModulus) ∧
    (s.operands.b m % 2 = 1 → 3 ≤ s.operands.b m →
      s.operands.b m ≤ s.operands.b a ∨ s.operands.b m ≤ s.operands.b b →
      FailsWith (.montmul d a b m) s .operandRange) ∧
    (s.operands.b m % 2 = 1 → 3 ≤ s.operands.b m →
      s.operands.b a < s.operands.b m → s.operands.b b < s.operands.b m →
      ∃ v, v < s.operands.b m ∧
        v * radix (s.operands.b m) % s.operands.b m = s.operands.b a * s.operands.b b % s.operands.b m ∧
        WritesBig (.montmul d a b m) s d v)

/-- R122: MODRED on written operands: BAD_MODULUS when m = 0, and otherwise B[FA] holds a mod m, RESULT is 0 and nothing else
changes but the completion flags. -/
def Obligations.ModredReduces : Prop :=
  ∀ (d a m : BReg) (s : State), s.Ready (.modred d a m) →
    (s.operands.b m = 0 → FailsWith (.modred d a m) s .badModulus) ∧
    (1 ≤ s.operands.b m → WritesBig (.modred d a m) s d (s.operands.b a % s.operands.b m))

/-- R123, R16: MODINV on written operands: BAD_MODULUS when m < 2, NOT_INVERTIBLE when gcd(a mod m, m) is not 1, and otherwise
B[FA] holds the v in [0, m) with a·v ≡ 1 (mod m), RESULT is 0 and nothing else changes but the completion flags. -/
def Obligations.ModinvInverts : Prop :=
  ∀ (d a m : BReg) (s : State), s.Ready (.modinv d a m) →
    (s.operands.b m < 2 → FailsWith (.modinv d a m) s .badModulus) ∧
    (2 ≤ s.operands.b m → Nat.gcd (s.operands.b a % s.operands.b m) (s.operands.b m) ≠ 1 →
      FailsWith (.modinv d a m) s .notInvertible) ∧
    (2 ≤ s.operands.b m → Nat.gcd (s.operands.b a % s.operands.b m) (s.operands.b m) = 1 →
      ∃ v, v < s.operands.b m ∧ s.operands.b a * v % s.operands.b m = 1 ∧ WritesBig (.modinv d a m) s d v)

/-- R124: MODEXP on written operands: BAD_MODULUS when m is even or m < 3, and otherwise B[FA] holds base ^ exp mod m, with
base ^ 0 = 1 also for base 0, RESULT is 0 and nothing else changes but the completion flags. -/
def Obligations.ModexpExponentiates : Prop :=
  ∀ (d base exp m : BReg) (s : State), s.Ready (.modexp d base exp m) →
    (s.operands.b m % 2 = 0 ∨ s.operands.b m < 3 → FailsWith (.modexp d base exp m) s .badModulus) ∧
    (s.operands.b m % 2 = 1 → 3 ≤ s.operands.b m →
      WritesBig (.modexp d base exp m) s d (s.operands.b base ^ s.operands.b exp % s.operands.b m))

/-- R120, R126: for odd m ≥ 3 the radix is R = 2^RB with RB = 64·ceil(L/64), where L is the bit length of m; R is above m,
coprime to it and invertible; and with toM(x) = x·R mod m the Montgomery-domain identities hold. -/
def Obligations.MontgomeryDomainIdentities : Prop :=
  ∀ m x y : Nat, m % 2 = 1 → 3 ≤ m →
    (∃ len, 2 ^ len ≤ m ∧ m < 2 ^ (len + 1) ∧ radixBits m = 64 * ((len + 1 + 63) / 64)) ∧
    radix m = 2 ^ radixBits m ∧ m < radix m ∧ Nat.gcd (radix m) m = 1 ∧
    (∃ v, inv (radix m) m = some v ∧ v < m ∧ radix m * v % m = 1) ∧
    montMul (x * radix m % m) (y * radix m % m) m = .ok (x * y % m * radix m % m) ∧
    montMul (x * radix m % m) 1 m = .ok (x % m) ∧
    montMul (x % m) (radix m ^ 2 % m) m = .ok (x * radix m % m) ∧
    modExp 2 (2 * radixBits m) m = .ok (radix m ^ 2 % m)

/-! The elliptic-curve group. -/

/-- R154: ec_dbl: O and the points with y = 0 give O; else the tangent slope and the point it gives, or NOT_INVERTIBLE. -/
def Obligations.DoublingIsTheTangentRule : Prop :=
  ∀ (c : CurveCfg) (x y : Nat), 2 ≤ c.p →
    ecDbl c .inf = .ok .inf ∧
    ecDbl c (.aff x 0) = .ok .inf ∧
    (y ≠ 0 → Nat.gcd (2 * y % c.p) c.p ≠ 1 → ecDbl c (.aff x y) = .error .notInvertible) ∧
    (y ≠ 0 → Nat.gcd (2 * y % c.p) c.p = 1 → ∃ lam x3 y3 : Nat,
      2 * (y : Int) * lam ≡ 3 * x * x + c.a [ZMOD c.p] ∧ lam < c.p ∧
      (x3 : Int) ≡ lam * lam - 2 * x [ZMOD c.p] ∧ x3 < c.p ∧
      (y3 : Int) ≡ lam * (x - x3) - y [ZMOD c.p] ∧ y3 < c.p ∧
      ecDbl c (.aff x y) = .ok (.aff x3 y3))

/-- R155: ec_add on points with coordinates below p: O is neutral, P + P doubles, P + (-P) = O, the other points with
x1 = x2 fail, and different x give the chord's point, or NOT_INVERTIBLE. -/
def Obligations.AdditionIsTheChordRule : Prop :=
  ∀ (c : CurveCfg) (q : Point) (x1 y1 x2 y2 : Nat), 2 ≤ c.p → x1 < c.p → y1 < c.p → x2 < c.p → y2 < c.p →
    ecAdd c .inf q = .ok q ∧ ecAdd c q .inf = .ok q ∧
    ecAdd c (.aff x1 y1) (.aff x1 y1) = ecDbl c (.aff x1 y1) ∧
    (x1 = x2 → y1 ≠ y2 → (y1 + y2) % c.p = 0 → ecAdd c (.aff x1 y1) (.aff x2 y2) = .ok .inf) ∧
    (x1 = x2 → y1 ≠ y2 → (y1 + y2) % c.p ≠ 0 →
      ecAdd c (.aff x1 y1) (.aff x2 y2) = .error .notInvertible) ∧
    (x1 ≠ x2 → Int.gcd ((x1 : Int) - x2) c.p ≠ 1 →
      ecAdd c (.aff x1 y1) (.aff x2 y2) = .error .notInvertible) ∧
    (x1 ≠ x2 → Int.gcd ((x1 : Int) - x2) c.p = 1 → ∃ lam x3 y3 : Nat,
      ((x1 : Int) - x2) * lam ≡ y1 - y2 [ZMOD c.p] ∧ lam < c.p ∧
      (x3 : Int) ≡ lam * lam - x1 - x2 [ZMOD c.p] ∧ x3 < c.p ∧
      (y3 : Int) ≡ lam * (x1 - x3) - y1 [ZMOD c.p] ∧ y3 < c.p ∧
      ecAdd c (.aff x1 y1) (.aff x2 y2) = .ok (.aff x3 y3))

/-- R156, R160: ec_mul is double-and-add from the most significant bit: k = 0 gives O, k = 1 gives P, and the multiple of
2k + bit comes from the multiple of k by a doubling and, where the bit is 1, an addition of P. -/
def Obligations.ScalarMultiplicationIsDoubleAndAdd : Prop :=
  ∀ (c : CurveCfg) (p : Point) (k : Nat),
    ecMul c 0 p = .ok .inf ∧ ecMul c 1 p = .ok p ∧
    (1 ≤ k → ∀ e, ecMul c k p = .error e → ecMul c (2 * k) p = .error e ∧ ecMul c (2 * k + 1) p = .error e) ∧
    (1 ≤ k → ∀ acc, ecMul c k p = .ok acc →
      ecMul c (2 * k) p = ecDbl c acc ∧
      (∀ e, ecDbl c acc = .error e → ecMul c (2 * k + 1) p = .error e) ∧
      (∀ dbl, ecDbl c acc = .ok dbl → ecMul c (2 * k + 1) p = ecAdd c dbl p))

/-- R157: ECADD on written operands: BAD_CONFIG for a bad configuration, then OPERAND_RANGE for an affine operand with a
coordinate not below p, and otherwise Pt[PA] holds ec_add(P, Q) and nothing else changes but the completion flags, or
NOT_INVERTIBLE where ec_add fails. -/
def Obligations.EcaddCompletes : Prop :=
  ∀ (d p q : PReg) (s : State), s.Ready (.ecadd d p q) →
    (¬ s.operands.cfg.Good → FailsWith (.ecadd d p q) s .badConfig) ∧
    (s.operands.cfg.Good →
      (s.operands.p p).inRange s.operands.cfg.p = false ∨ (s.operands.p q).inRange s.operands.cfg.p = false →
      FailsWith (.ecadd d p q) s .operandRange) ∧
    (s.operands.cfg.Good → (s.operands.p p).inRange s.operands.cfg.p = true →
      (s.operands.p q).inRange s.operands.cfg.p = true →
      (∀ r, ecAdd s.operands.cfg (s.operands.p p) (s.operands.p q) = .ok r → WritesPoint (.ecadd d p q) s d r) ∧
      (∀ e, ecAdd s.operands.cfg (s.operands.p p) (s.operands.p q) = .error e →
        FailsWith (.ecadd d p q) s .notInvertible))

/-- R158: ECDBL on a written operand: BAD_CONFIG, then OPERAND_RANGE, and otherwise Pt[PA] holds ec_dbl(P) and nothing else
changes but the completion flags, or NOT_INVERTIBLE where ec_dbl fails. -/
def Obligations.EcdblCompletes : Prop :=
  ∀ (d p : PReg) (s : State), s.Ready (.ecdbl d p) →
    (¬ s.operands.cfg.Good → FailsWith (.ecdbl d p) s .badConfig) ∧
    (s.operands.cfg.Good → (s.operands.p p).inRange s.operands.cfg.p = false →
      FailsWith (.ecdbl d p) s .operandRange) ∧
    (s.operands.cfg.Good → (s.operands.p p).inRange s.operands.cfg.p = true →
      (∀ r, ecDbl s.operands.cfg (s.operands.p p) = .ok r → WritesPoint (.ecdbl d p) s d r) ∧
      (∀ e, ecDbl s.operands.cfg (s.operands.p p) = .error e → FailsWith (.ecdbl d p) s .notInvertible))

/-- R161: ECMUL on written operands: BAD_CONFIG, then OPERAND_RANGE, and otherwise Pt[PA] holds ec_mul(k, P), with k as given,
and nothing else changes but the completion flags, or NOT_INVERTIBLE where ec_mul fails. -/
def Obligations.EcmulCompletes : Prop :=
  ∀ (d : PReg) (k : BReg) (p : PReg) (s : State), s.Ready (.ecmul d k p) →
    (¬ s.operands.cfg.Good → FailsWith (.ecmul d k p) s .badConfig) ∧
    (s.operands.cfg.Good → (s.operands.p p).inRange s.operands.cfg.p = false →
      FailsWith (.ecmul d k p) s .operandRange) ∧
    (s.operands.cfg.Good → (s.operands.p p).inRange s.operands.cfg.p = true →
      (∀ r, ecMul s.operands.cfg (s.operands.b k) (s.operands.p p) = .ok r → WritesPoint (.ecmul d k p) s d r) ∧
      (∀ e, ecMul s.operands.cfg (s.operands.b k) (s.operands.p p) = .error e →
        FailsWith (.ecmul d k p) s .notInvertible))

/-- R162: ECCHK on a written operand: BAD_CONFIG for a bad configuration, and otherwise RESULT is 1 exactly when the point is
affine, has both coordinates below p and satisfies the curve equation, and no register changes. -/
def Obligations.EcchkAnswersMembership : Prop :=
  ∀ (p : PReg) (s : State), s.Ready (.ecchk p) →
    (¬ s.operands.cfg.Good → FailsWith (.ecchk p) s .badConfig) ∧
    (s.operands.cfg.Good → ∃ on, AnswersBool (.ecchk p) s on ∧
      (on = true ↔ ∃ x y, s.operands.p p = .aff x y ∧ x < s.operands.cfg.p ∧ y < s.operands.cfg.p ∧
        y * y % s.operands.cfg.p =
          (x * x * x + s.operands.cfg.a * x + s.operands.cfg.b) % s.operands.cfg.p))

/-- R159: coordinates of results are below p; and when p is prime, points on the curve stay on the curve and no failure
occurs, for addition, doubling and scalar multiplication. -/
def Obligations.GroupOperationsStayOnTheCurve : Prop :=
  ∀ (c : CurveCfg) (p q : Point) (k : Nat), c.Good → p.inRange c.p = true → q.inRange c.p = true →
    (∀ r, ecAdd c p q = .ok r ∨ ecDbl c p = .ok r ∨ ecMul c k p = .ok r → r.inRange c.p = true) ∧
    (Nat.Prime c.p → (p = .inf ∨ onCurve c p = true) → (q = .inf ∨ onCurve c q = true) →
      (∃ r, ecAdd c p q = .ok r ∧ (r = .inf ∨ onCurve c r = true)) ∧
      (∃ r, ecDbl c p = .ok r ∧ (r = .inf ∨ onCurve c r = true)) ∧
      (∃ r, ecMul c k p = .ok r ∧ (r = .inf ∨ onCurve c r = true)))

/-! ECDSA. -/

/-- R181: ECDSA_KEYGEN draws d once, after the configuration check, and writes d and d·G; a failure is not retried. -/
def Obligations.EcdsaKeygenCompletes : Prop :=
  ∀ (priv : BReg) (pub : PReg) (s : State), s.par.Legal →
    (¬ s.operands.cfg.Good → FailsWith (.ecdsaKeygen priv pub) s .badConfig) ∧
    (s.operands.cfg.Good → ∀ d dr, drawRng 1 s.operands.cfg.n s.draws = (d, dr) →
      1 ≤ d ∧ d < s.operands.cfg.n ∧
      (∀ q, ecMul s.operands.cfg d s.operands.cfg.g = .ok q →
        ∃ t, exec (.ecdsaKeygen priv pub) s = .next t ∧ HoldsBig t priv d ∧ HoldsPoint t pub q ∧
          BigSameExcept s t [priv] ∧ PtSameExcept s t [pub] ∧ t.tries = s.tries ∧ t.draws = dr ∧
          SameElse s t ∧ CompletedWith t .none false) ∧
      (∀ e, ecMul s.operands.cfg d s.operands.cfg.g = .error e →
        ∃ t, exec (.ecdsaKeygen priv pub) s = .next t ∧ t.big = s.big ∧ t.pt = s.pt ∧ t.tries = s.tries ∧
          t.draws = dr ∧ SameElse s t ∧ CompletedWith t .notInvertible false))

/-- R183, one attempt: it gives (r, s) exactly when k·G is an affine point, r = x mod n is not 0, k is invertible modulo n and
s = k⁻¹(h + r·d) mod n is not 0. -/
def Obligations.SigningAttemptFollowsTheEquation : Prop :=
  ∀ (c : CurveCfg) (h d k r sg : Nat), 2 ≤ c.n →
    (signAttempt c h d k = some (r, sg) ↔
      ∃ x y kinv, ecMul c k c.g = .ok (.aff x y) ∧ r = x % c.n ∧ r ≠ 0 ∧
        kinv < c.n ∧ k * kinv % c.n = 1 ∧ sg = kinv * (h + r * d) % c.n ∧ sg ≠ 0)

/-- R183: ECDSA_SIGN writes the signature of the first attempt that is not degenerate, if it is among the first SIGNMAX, and
TRIES counts the attempts. -/
def Obligations.EcdsaSignTakesTheFirstGoodNonce : Prop :=
  ∀ (r sg h priv : BReg) (s : State) (j rv sv : Nat), s.Ready (.ecdsaSign r sg h priv) →
    r ≠ sg → s.operands.cfg.Good → s.operands.b h < 2 ^ 256 → j < s.operands.signmax.toNat →
    (∀ i < j, signAttempt s.operands.cfg (s.operands.b h) (s.operands.b priv)
      (nonceAt 1 s.operands.cfg.n i s.draws) = none) →
    signAttempt s.operands.cfg (s.operands.b h) (s.operands.b priv)
      (nonceAt 1 s.operands.cfg.n j s.draws) = some (rv, sv) →
    ∃ t, exec (.ecdsaSign r sg h priv) s = .next t ∧ HoldsBig t r rv ∧ HoldsBig t sg sv ∧
      BigSameExcept s t [r, sg] ∧ t.pt = s.pt ∧ t.tries.toNat = j + 1 ∧
      t.draws = drawsAfter 1 s.operands.cfg.n (j + 1) s.draws ∧ SameElse s t ∧ CompletedWith t .none false

/-- R180, R183, R246: the errors of ECDSA_SIGN in their order, with TRIES 0 before the loop, and RETRY_EXHAUSTED with TRIES at
the cap after SIGNMAX degenerate attempts. -/
def Obligations.EcdsaSignErrors : Prop :=
  ∀ (r sg h priv : BReg) (s : State), s.Ready (.ecdsaSign r sg h priv) →
    (∀ code,
      (r = sg ∧ code = .destAlias ∨
        r ≠ sg ∧ ¬ s.operands.cfg.Good ∧ code = .badConfig ∨
        r ≠ sg ∧ s.operands.cfg.Good ∧ 2 ^ 256 ≤ s.operands.b h ∧ code = .operandRange) →
      ∃ t, exec (.ecdsaSign r sg h priv) s = .next t ∧ t.big = s.big ∧ t.pt = s.pt ∧ t.tries = 0 ∧
        t.draws = s.draws ∧ SameElse s t ∧ CompletedWith t code false) ∧
    (r ≠ sg → s.operands.cfg.Good → s.operands.b h < 2 ^ 256 →
      (∀ i < s.operands.signmax.toNat, signAttempt s.operands.cfg (s.operands.b h) (s.operands.b priv)
        (nonceAt 1 s.operands.cfg.n i s.draws) = none) →
      ∃ t, exec (.ecdsaSign r sg h priv) s = .next t ∧ t.big = s.big ∧ t.pt = s.pt ∧
        t.tries = s.operands.signmax ∧
        t.draws = drawsAfter 1 s.operands.cfg.n s.operands.signmax.toNat s.draws ∧ SameElse s t ∧
        CompletedWith t .retryExhausted false)

/-- R184: a successful ECDSA_SIGN writes 1 ≤ r ≤ n - 1 and 1 ≤ s ≤ n - 1, and TRIES between 1 and SIGNMAX. -/
def Obligations.SignaturesAreInRange : Prop :=
  ∀ (r sg h priv : BReg) (s t : State), exec (.ecdsaSign r sg h priv) s = .next t → t.err = .none →
    1 ≤ t.big[r].value ∧ t.big[r].value < s.operands.cfg.n ∧
    1 ≤ t.big[sg].value ∧ t.big[sg].value < s.operands.cfg.n ∧
    1 ≤ t.tries.toNat ∧ t.tries.toNat ≤ s.operands.signmax.toNat

/-- R185, R186: ECDSA_VERIFY raises an error only for the configuration and the digest, and otherwise answers the
verification equation as a boolean, false for every malformed input. -/
def Obligations.EcdsaVerifyIsTotal : Prop :=
  ∀ (h r sg : BReg) (pub : PReg) (s : State), s.Ready (.ecdsaVerify h r sg pub) →
    (¬ s.operands.cfg.Good → FailsWith (.ecdsaVerify h r sg pub) s .badConfig) ∧
    (s.operands.cfg.Good → 2 ^ 256 ≤ s.operands.b h → FailsWith (.ecdsaVerify h r sg pub) s .operandRange) ∧
    (s.operands.cfg.Good → s.operands.b h < 2 ^ 256 → ∃ ok, AnswersBool (.ecdsaVerify h r sg pub) s ok ∧
      (ok = true ↔
        1 ≤ s.operands.b r ∧ s.operands.b r < s.operands.cfg.n ∧
        1 ≤ s.operands.b sg ∧ s.operands.b sg < s.operands.cfg.n ∧
        (s.operands.p pub).inRange s.operands.cfg.p = true ∧
        ∃ w pa pb x y, s.operands.b sg * w % s.operands.cfg.n = 1 ∧ w < s.operands.cfg.n ∧
          ecMul s.operands.cfg (s.operands.b h * w % s.operands.cfg.n) s.operands.cfg.g = .ok pa ∧
          ecMul s.operands.cfg (s.operands.b r * w % s.operands.cfg.n) (s.operands.p pub) = .ok pb ∧
          ecAdd s.operands.cfg pa pb = .ok (.aff x y) ∧ x % s.operands.cfg.n = s.operands.b r))

/-! RSA. -/

/-- R211, R212: RSA_KEYGEN: DEST_ALIAS first; then two draws, the second only after a good first; the key of two good
primes, or EXP_NOT_INVERTIBLE. Nothing is retried. -/
def Obligations.RsaKeygenCompletes : Prop :=
  ∀ (n d : BReg) (s : State), s.par.Legal →
    (n = d → FailsWith (.rsaKeygen n d) s .destAlias) ∧
    (n ≠ d → ∀ a1 a2 dr1 dr2, drawPrime s.par s.draws = (a1, dr1) → drawPrime s.par dr1 = (a2, dr2) →
      ((∀ p, a1 = some p → p < 2 ∨ 2 ^ s.par.pbits ≤ p) →
        ∃ t, exec (.rsaKeygen n d) s = .next t ∧ t.big = s.big ∧ t.pt = s.pt ∧ t.tries = s.tries ∧ t.draws = dr1 ∧
          SameElse s t ∧ CompletedWith t .primeGenFail false) ∧
      (∀ p, a1 = some p → 2 ≤ p → p < 2 ^ s.par.pbits →
        ((∀ q, a2 = some q → q < 2 ∨ 2 ^ s.par.pbits ≤ q) →
          ∃ t, exec (.rsaKeygen n d) s = .next t ∧ t.big = s.big ∧ t.pt = s.pt ∧ t.tries = s.tries ∧
            t.draws = dr2 ∧ SameElse s t ∧ CompletedWith t .primeGenFail false) ∧
        (∀ q, a2 = some q → 2 ≤ q → q < 2 ^ s.par.pbits →
          ((p - 1) * (q - 1) < 2 ∨ Nat.gcd 65537 ((p - 1) * (q - 1)) ≠ 1 →
            ∃ t, exec (.rsaKeygen n d) s = .next t ∧ t.big = s.big ∧ t.pt = s.pt ∧ t.tries = s.tries ∧
              t.draws = dr2 ∧ SameElse s t ∧ CompletedWith t .expNotInvertible false) ∧
          (2 ≤ (p - 1) * (q - 1) → Nat.gcd 65537 ((p - 1) * (q - 1)) = 1 →
            ∃ t dv, exec (.rsaKeygen n d) s = .next t ∧ dv < (p - 1) * (q - 1) ∧
              65537 * dv % ((p - 1) * (q - 1)) = 1 ∧ HoldsBig t n (p * q) ∧ HoldsBig t d dv ∧
              BigSameExcept s t [n, d] ∧ t.pt = s.pt ∧ t.tries = s.tries ∧ t.draws = dr2 ∧ SameElse s t ∧
              CompletedWith t .none false))))

/-- R213: RSA_SIGN on written operands: BAD_MODULUS when n is even or n < 3, then OPERAND_RANGE when h ≥ 2^256, and otherwise
B[FA] holds h ^ d mod n, RESULT is 0 and nothing else changes but the completion flags. -/
def Obligations.RsaSignExponentiates : Prop :=
  ∀ (sig h d n : BReg) (s : State), s.Ready (.rsaSign sig h d n) →
    (s.operands.b n % 2 = 0 ∨ s.operands.b n < 3 → FailsWith (.rsaSign sig h d n) s .badModulus) ∧
    (s.operands.b n % 2 = 1 → 3 ≤ s.operands.b n → 2 ^ 256 ≤ s.operands.b h →
      FailsWith (.rsaSign sig h d n) s .operandRange) ∧
    (s.operands.b n % 2 = 1 → 3 ≤ s.operands.b n → s.operands.b h < 2 ^ 256 →
      WritesBig (.rsaSign sig h d n) s sig (s.operands.b h ^ s.operands.b d % s.operands.b n))

/-- R215: RSA_VERIFY, with its checks in order: without the strip flag the candidate is compared with the digest as an
integer, with it by strip_match. -/
def Obligations.RsaVerifyCompares : Prop :=
  ∀ (strip : Bool) (h sig n : BReg) (s : State), s.Ready (.rsaVerify strip h sig n) →
    (s.operands.b n % 2 = 0 ∨ s.operands.b n < 3 → FailsWith (.rsaVerify strip h sig n) s .badModulus) ∧
    (s.operands.b n % 2 = 1 → 3 ≤ s.operands.b n → 2 ^ 256 ≤ s.operands.b h →
      FailsWith (.rsaVerify strip h sig n) s .operandRange) ∧
    (s.operands.b n % 2 = 1 → 3 ≤ s.operands.b n → s.operands.b h < 2 ^ 256 →
      ∃ ok, AnswersBool (.rsaVerify strip h sig n) s ok ∧
        (strip = false → (ok = true ↔ s.operands.b sig ^ 65537 % s.operands.b n = s.operands.b h)) ∧
        (strip = true →
          ok = stripMatch (s.operands.b sig ^ 65537 % s.operands.b n) (s.operands.b h)))

/-- R216: strip_match: bytes(cand) is the shortest byte string of cand, big-endian, and it matches exactly when it is some
bytes none of which is 0, a zero byte, and then the 32 bytes of the digest. -/
def Obligations.StripMatchComparesTheTail : Prop :=
  ∀ cand h : Nat, h < 2 ^ 256 →
    digestValue (minimalBytes cand) = cand ∧ (∀ b rest, minimalBytes cand = b :: rest → b ≠ 0) ∧
    (stripMatch cand h = true ↔
      ∃ pre tail : List Byte, minimalBytes cand = pre ++ 0 :: tail ∧ (∀ b ∈ pre, b ≠ 0) ∧
        tail.length = 32 ∧ digestValue tail = h)

/-- R217 (a), (b): for a key that RSA_KEYGEN makes from distinct odd primes, the signature of a digest below n verifies
without the strip flag, and the signature of any digest fails with it. -/
def Obligations.RsaRoundTrip : Prop :=
  ∀ p q n d h : Nat, Nat.Prime p → Nat.Prime q → p ≠ q → p % 2 = 1 → q % 2 = 1 → rsaKey p q = .ok (n, d) →
    h < 2 ^ 256 → ∃ sig, rsaSignature h d n = .ok sig ∧
      (h < n → rsaVerify false h sig n = .ok true) ∧
      (n ≤ h → rsaVerify false h sig n = .ok false) ∧
      rsaVerify true h sig n = .ok false

/-! The register window. -/

/-- R61 to R64: where every word stands in the window: the eight control and status registers, the words of the configuration,
big and point registers, and the reserved ranges. -/
def Obligations.WindowMap : Prop :=
  ∀ (par : Params) (k : Nat), par.Legal → k < 128 →
    (slotAt par 0x000 = .id ∧ slotAt par 0x004 = .param ∧ slotAt par 0x008 = .ctrl ∧ slotAt par 0x00C = .status ∧
      slotAt par 0x010 = .cmd ∧ slotAt par 0x014 = .errcode ∧ slotAt par 0x018 = .tries ∧
      slotAt par 0x01C = .signmax) ∧
    (∀ off, 0x020 ≤ off ∧ off < 0x1000 ∨ 0x1C00 ≤ off ∧ off < 0x2000 → slotAt par off = .reserved) ∧
    (∀ c : CfgReg, slotAt par (0x1000 + 0x200 * cfgIndex c + 4 * k) =
      if k < par.words then .cfgWord c k else .reserved) ∧
    (∀ i : BReg, slotAt par (0x2000 + 0x200 * i.val + 4 * k) = if k < par.words then .bigWord i k else .reserved) ∧
    (∀ j : PReg, slotAt par (0x4000 + 0x800 * j.val) = .infWord j) ∧
    (∀ j : PReg, slotAt par (0x4200 + 0x800 * j.val + 4 * k) = if k < par.words then .xWord j k else .reserved) ∧
    (∀ j : PReg, slotAt par (0x4400 + 0x800 * j.val + 4 * k) = if k < par.words then .yWord j k else .reserved) ∧
    (∀ (j : PReg) (off : Nat), 0x004 ≤ off ∧ off < 0x200 ∨ 0x600 ≤ off ∧ off < 0x800 →
      slotAt par (0x4000 + 0x800 * j.val + off) = .reserved)

/-- R66, R69: a legal host write is a step with the effect that writeSlot gives it, in every phase; and in IDLE a write of a
big-register or coordinate word, and of an unlocked configuration word, reads back, and every other word of the window reads
as before. -/
def Obligations.DataWordsReadBack : Prop :=
  (∀ (s : State) (addr : Nat) (v : Word) (rest : List Input),
    s.turnedAway addr 4 = none → s.inputs = .write addr 4 v :: rest →
    step s = .next { s.writeSlot (slotAt s.par (addr - s.par.wbase)) v with inputs := rest, resp := .ack }) ∧
  ∀ (s : State) (slot : Slot) (v : Word), s.phase = .idle →
    ((∃ i k, k < 128 ∧ slot = .bigWord i k) ∨ (∃ j k, k < 128 ∧ slot = .xWord j k) ∨
      (∃ j k, k < 128 ∧ slot = .yWord j k) ∨ (∃ c k, s.lock = false ∧ slot = .cfgWord c k)) →
    (s.writeSlot slot v).readSlot slot = some v ∧
    ∀ other, other ≠ slot → (s.writeSlot slot v).readSlot other = s.readSlot other

/-- R66, R38: a legal host write of an INF word in IDLE stores bit 0, one of SIGNMAX stores v[7:0], or 1 where that is 0; the
step has no other effect: every other word of the window reads as before. -/
def Obligations.InfAndSignmaxWrites : Prop :=
  ∀ (s : State) (addr : Nat) (v : Word) (rest : List Input), s.phase = .idle →
    s.turnedAway addr 4 = none → s.inputs = .write addr 4 v :: rest →
    let slot := slotAt s.par (addr - s.par.wbase)
    ((∃ j, slot = .infWord j) → ∃ t, step s = .next t ∧ t.readSlot slot = some (v &&& 1) ∧
      ∀ other, other ≠ slot → t.readSlot other = s.readSlot other) ∧
    (slot = .signmax → ∃ t, step s = .next t ∧
      t.readSlot slot = some (if v &&& 0xFF = 0 then 1 else v &&& 0xFF) ∧
      ∀ other, other ≠ slot → t.readSlot other = s.readSlot other)

/-- R68: a host write to a data-register word while BUSY, or to a configuration word while LOCK = 1, sets WRDROP and has no
other effect; every other write leaves WRDROP as it is, but for a write of STATUS; writes to CTRL and STATUS take effect in
every phase. -/
def Obligations.DroppedWritesSetWrdrop : Prop :=
  ∀ (s : State) (addr : Nat) (v : Word) (rest : List Input),
    s.turnedAway addr 4 = none → s.inputs = .write addr 4 v :: rest →
    let slot := slotAt s.par (addr - s.par.wbase)
    (slot.isData = true → (s.busy = true ∨ slot.isCfg = true ∧ s.lock = true) →
      step s = .next { s with wrdrop := true, inputs := rest, resp := .ack }) ∧
    (¬ (slot.isData = true ∧ (s.busy = true ∨ slot.isCfg = true ∧ s.lock = true)) → slot ≠ .status →
      ∃ t, step s = .next t ∧ t.wrdrop = s.wrdrop) ∧
    (slot = .ctrl →
      step s = .next { s with ie := v.getLsbD 0, lock := s.lock || v.getLsbD 1, inputs := rest, resp := .ack }) ∧
    (slot = .status →
      step s = .next { s with
        done := s.done && !v.getLsbD 1, cmdovr := s.cmdovr && !v.getLsbD 4,
        wrdrop := s.wrdrop && !v.getLsbD 5, inputs := rest, resp := .ack })

/-- R71: an access in the window that is not 32 bits wide at an offset that is a multiple of 4 is answered by a bus error and
changes no state of the block. That an access under reset changes nothing and is answered noAnswer is the model's choice (log
11): R271 says only that none is answered. An access belongs to the window by the address of its first byte, the model's
choice for one that straddles the window's edge (log 12). -/
def Obligations.RefusedAccessesChangeNothing : Prop :=
  ∀ (s : State) (addr size : Nat) (v : Word) (rest : List Input),
    (s.resetLine = true →
      (s.inputs = .read addr size :: rest → step s = .next { s with inputs := rest, resp := .noAnswer }) ∧
      (s.inputs = .write addr size v :: rest → step s = .next { s with inputs := rest, resp := .noAnswer })) ∧
    (s.resetLine = false → s.InWindow addr → ¬ (size = 4 ∧ (addr - s.par.wbase) % 4 = 0) →
      (s.inputs = .read addr size :: rest → step s = .next { s with inputs := rest, resp := .busError }) ∧
      (s.inputs = .write addr size v :: rest → step s = .next { s with inputs := rest, resp := .busError }))

/-- R69, R72: a legal read has no side effect on the block and returns the word. R21, R22, R62 to R64, R69, R70: a word of a
big register or of a coordinate is bits [32k+31 : 32k] of the value, an INF word is INF, and each is unspecified exactly while
BUSY or unwritten; a configuration word is always bits [32k+31 : 32k] of its register. Where the word is unspecified the answer
is a free value, with bits 31 to 1 zero for an INF word (R63), and a later read takes a fresh one (the counter is the model's,
log 6). -/
def Obligations.ReadsHaveNoSideEffect : Prop :=
  (∀ (s : State) (addr : Nat) (rest : List Input),
    s.turnedAway addr 4 = none → s.inputs = .read addr 4 :: rest →
    let slot := slotAt s.par (addr - s.par.wbase)
    ∃ t, step s = .next t ∧ SameBlock s t ∧ t.inputs = rest ∧
      (∀ w, s.readSlot slot = some w → t.resp = .data w ∧ t.draws = s.draws) ∧
      (s.readSlot slot = none → t.draws.free = s.draws.free + 1 ∧
        ((∀ j, slot ≠ .infWord j) → t.resp = .data (Config.freeWord s.draws.free)) ∧
        (∀ j, slot = .infWord j → t.resp = .data (Config.freeWord s.draws.free &&& 1)))) ∧
  ∀ (s : State) (k : Nat) (w : Word),
    (∀ i : BReg, (s.readSlot (.bigWord i k) = none ↔ s.busy = true ∨ s.big[i].written.getLsbD k = false) ∧
      (s.readSlot (.bigWord i k) = some w → w.toNat = s.big[i].value / 2 ^ (32 * k) % 2 ^ 32)) ∧
    (∀ j : PReg, (s.readSlot (.infWord j) = none ↔ s.busy = true ∨ s.pt[j].infWritten = false) ∧
      (s.readSlot (.infWord j) = some w → w = if s.pt[j].inf then 1 else 0)) ∧
    (∀ j : PReg, (s.readSlot (.xWord j k) = none ↔ s.busy = true ∨ s.pt[j].x.written.getLsbD k = false) ∧
      (s.readSlot (.xWord j k) = some w → w.toNat = s.pt[j].x.value / 2 ^ (32 * k) % 2 ^ 32)) ∧
    (∀ j : PReg, (s.readSlot (.yWord j k) = none ↔ s.busy = true ∨ s.pt[j].y.written.getLsbD k = false) ∧
      (s.readSlot (.yWord j k) = some w → w.toNat = s.pt[j].y.value / 2 ^ (32 * k) % 2 ^ 32)) ∧
    (∀ e ∈ [(CfgReg.p, s.cfg.p), (.a, s.cfg.a), (.b, s.cfg.b), (.n, s.cfg.n), (.gx, s.cfg.gx), (.gy, s.cfg.gy)],
      ∃ v, s.readSlot (.cfgWord e.1 k) = some v ∧ v.toNat = e.2 / 2 ^ (32 * k) % 2 ^ 32)

/-- R65: a reserved word reads as zero and ignores writes, in every phase, without setting any flag; R31, R32, R36, R39: a
write of a read-only word, ID, PARAM, ERRCODE or TRIES, is ignored in every phase too. -/
def Obligations.ReservedWordsReadZero : Prop :=
  ∀ (s : State) (addr : Nat) (v : Word) (rest : List Input), s.turnedAway addr 4 = none →
    let slot := slotAt s.par (addr - s.par.wbase)
    (slot = .reserved →
      s.inputs = .read addr 4 :: rest → step s = .next { s with inputs := rest, resp := .data 0 }) ∧
    (slot = .reserved ∨ slot = .id ∨ slot = .param ∨ slot = .errcode ∨ slot = .tries →
      s.inputs = .write addr 4 v :: rest → step s = .next { s with inputs := rest, resp := .ack })

/-- R34, R33: the STATUS word and the CTRL word as the host reads them, bit by bit; a host write of STATUS, which clears the
write-1-to-clear bits written as 1 and changes nothing else; and a host write of CTRL, which writes IE and sets LOCK where bit
1 is written as 1. -/
def Obligations.StatusAndCtrlBits : Prop :=
  ∀ (s : State) (v : Word),
    (∃ w, s.readSlot .status = some w ∧ ∀ n, w.getLsbD n =
      (decide (n = 0) && s.busy || decide (n = 1) && s.done || decide (n = 2) && decide (s.err ≠ .none) ||
        decide (n = 3) && s.result || decide (n = 4) && s.cmdovr || decide (n = 5) && s.wrdrop)) ∧
    (∃ w, s.readSlot .ctrl = some w ∧ ∀ n, w.getLsbD n = (decide (n = 0) && s.ie || decide (n = 1) && s.lock)) ∧
    s.writeSlot .status v =
      { s with done := s.done && !v.getLsbD 1, cmdovr := s.cmdovr && !v.getLsbD 4,
               wrdrop := s.wrdrop && !v.getLsbD 5 } ∧
    s.writeSlot .ctrl v = { s with ie := v.getLsbD 0, lock := s.lock || v.getLsbD 1 }

/-- R33: LOCK, once set, stays set until reset is asserted, and until then no step changes the configuration. -/
def Obligations.LockHoldsUntilReset : Prop :=
  ∀ s t : State, step s = .next t → s.lock = true → (¬ ∃ rest, s.inputs = .resetAssert :: rest) →
    t.lock = true ∧ t.cfg = s.cfg

/-- R250: IRQ rises only by a completion, or by a host write of CTRL that enables it while DONE is set. -/
def Obligations.IrqRisesOnlyByCompletion : Prop :=
  ∀ s t : State, step s = .next t → s.irq = false → t.irq = true →
    (s.busy = true ∧ t.busy = false ∧ s.ie = true) ∨
    (s.done = true ∧ s.ie = false ∧ ∃ addr v rest, s.inputs = .write addr 4 v :: rest ∧
      slotAt s.par (addr - s.par.wbase) = .ctrl)

/-- R283, R284: a BUSY phase always ends: within one step more than the listed inputs the hardware's run reaches IDLE, and the
spec's run reaches an end state, which is the same, or ends as the fault UNWRITTEN_OPERAND (that a silent world means the
sequencer's turn is the model's choice, log 2). From a state in which none is recorded, the hardware's run of any length shows
which: the spec's run is the same as long as nothing is recorded, and else it ended as the fault of the recorded command
(log 7). -/
def Obligations.BusyPhaseEnds : Prop :=
  ∀ s : State,
    (∃ k, k ≤ s.inputs.length + 1 ∧ ∃ t, runSteps k s = .next t ∧ t.phase = .idle ∧
      (EndsIn k s t ∨ ∃ i, modelRun k s = .fault (.unwrittenOperand i))) ∧
    (s.unwrittenOperand = none → ∀ (k : Nat) (t : State), runSteps k s = .next t →
      (t.unwrittenOperand = none → modelRun k s = .next t) ∧
      (∀ i, t.unwrittenOperand = some i → modelRun k s = .fault (.unwrittenOperand i)) ∧
      (t.Ended ↔ EndsIn k s t))

/-- R78, R275: no host access can change a running command: whatever access comes between acceptance and completion, the
command reads the same operands and leaves the same registers, error, boolean and attempt count. A command that takes values
from outside the snapshot, at a port (R254, R255) or for an unwritten word (log 7), is compared on the same draws, because an
unspecified read takes a free value from the same counter (log 6). -/
def Obligations.HostCannotChangeARunningCommand : Prop :=
  ∀ (s t u : State) (e : Input) (w : Word) (snap : Snapshot) (i : Instr), s.phase = .busy w snap →
    decode w = .cmd i →
    (t.draws = s.draws ∨
      operandsWritten s.par snap i = true ∧ opcode i ≠ .ecdsaKeygen ∧ opcode i ≠ .ecdsaSign ∧ opcode i ≠ .rsaKeygen) →
    ((∃ addr size, e = .read addr size) ∨ (∃ addr size v, e = .write addr size v)) →
    takeInput s e = .next t → exec i s = .next u →
    ∃ u', exec i t = .next u' ∧ u'.big = u.big ∧ u'.pt = u.pt ∧ u'.err = u.err ∧ u'.result = u.result ∧
      u'.tries = u.tries ∧ u'.cfg = u.cfg ∧ u'.cmd = u.cmd ∧ u'.phase = u.phase ∧
      u'.unwrittenOperand = u.unwrittenOperand

/-- R35, R36, R38, R39, R69, R241: what the host reads from CMD, TRIES, SIGNMAX and ERRCODE, in every phase: the last accepted
word, the two counts with zeros above, and the number that the table gives the error code. A read of each is a step that
answers the word. R248: ERRCODE and RESULT keep their values until the next acceptance, or reset. -/
def Obligations.CodeAndCountReads : Prop :=
  (∀ s t : State, step s = .next t → s.phase = .idle → t.phase = .idle →
    (¬ ∃ rest, s.inputs = .resetAssert :: rest) → t.err = s.err ∧ t.result = s.result) ∧
  ∀ s : State,
    s.readSlot .cmd = some s.cmd ∧
    (∃ w, s.readSlot .tries = some w ∧ w.toNat = s.tries.toNat) ∧
    (∃ w, s.readSlot .signmax = some w ∧ w.toNat = s.signmax.toNat) ∧
    (∃ w, s.readSlot .errcode = some w ∧
      (s.err = .none ↔ w = 0x00) ∧ (s.err = .illegalOpcode ↔ w = 0x01) ∧ (s.err = .reservedField ↔ w = 0x02) ∧
      (s.err = .destAlias ↔ w = 0x03) ∧ (s.err = .badConfig ↔ w = 0x04) ∧ (s.err = .badModulus ↔ w = 0x05) ∧
      (s.err = .operandRange ↔ w = 0x06) ∧ (s.err = .notInvertible ↔ w = 0x07) ∧ (s.err = .primeGenFail ↔ w = 0x08) ∧
      (s.err = .expNotInvertible ↔ w = 0x09) ∧ (s.err = .retryExhausted ↔ w = 0x0A)) ∧
    ∀ (addr : Nat) (rest : List Input) (slot : Slot) (w : Word), s.turnedAway addr 4 = none →
      s.inputs = .read addr 4 :: rest → slotAt s.par (addr - s.par.wbase) = slot →
      slot = .cmd ∨ slot = .tries ∨ slot = .signmax ∨ slot = .errcode → s.readSlot slot = some w →
      step s = .next { s with inputs := rest, resp := .data w }
end

