-- ==== Sys2Proof/Laws/Arith.lean ====
section
/-! SUPPORT. What the arithmetic of Machine/Arith.lean computes: one lemma for each algorithm. -/

namespace Sys2Proof.Laws

open Sys2Proof.Machine

/-! Euclidean remainder (R15). -/

theorem emod_cast (a : Int) {m : Nat} (hm : 0 < m) : ((emod a m : Nat) : Int) = a % m :=
  Int.toNat_of_nonneg (Int.emod_nonneg a (by omega))

theorem emod_lt (a : Int) {m : Nat} (hm : 0 < m) : emod a m < m := by
  have h := emod_cast a hm
  have := Int.emod_lt_of_pos a (b := (m : Int)) (by omega)
  omega

@[simp] theorem emod_natCast (a m : Nat) : emod (a : Int) m = a % m := by
  rw [emod, ← Int.natCast_mod, Int.toNat_natCast]

theorem emod_of_lt {v m : Nat} (h : v < m) : emod (v : Int) m = v := by
  rw [emod_natCast, Nat.mod_eq_of_lt h]

theorem emod_modEq (a : Int) {m : Nat} (hm : 0 < m) : ((emod a m : Nat) : Int) ≡ a [ZMOD m] := by
  rw [emod_cast a hm]; exact Int.mod_modEq a m

/-- emod is the one remainder in [0, m) (R15). -/
theorem emod_unique {a : Int} {m r : Nat} (hr : r < m) (h : (r : Int) ≡ a [ZMOD m]) : emod a m = r := by
  have hm : 0 < m := by omega
  have e := (emod_modEq a hm).trans h.symm
  have := Int.ModEq.eq e
  rw [Int.emod_eq_of_lt (by omega) (by have := emod_lt a hm; omega),
    Int.emod_eq_of_lt (by omega) (by omega)] at this
  omega

theorem emod_congr {a b : Int} {m : Nat} (hm : 0 < m) (h : a ≡ b [ZMOD m]) : emod a m = emod b m :=
  emod_unique (emod_lt b hm) ((emod_modEq b hm).trans h.symm)

/-- A difference reduced: the residue that, with b added, is a (R117). -/
theorem emod_sub_add (a b : Nat) {m : Nat} (hm : 0 < m) : (emod ((a : Int) - b) m + b) % m = a % m := by
  have h := (emod_modEq ((a : Int) - b) hm).add_right (b : Int)
  rw [sub_add_cancel] at h
  have h' : ((emod ((a : Int) - b) m + b : Nat) : Int) ≡ (a : Nat) [ZMOD m] := by push_cast; exact h
  exact (Int.natCast_modEq_iff.mp h')

/-! Bit length and bits (R14). -/

theorem bitlen_zero : bitlen 0 = 0 := rfl

theorem lt_two_pow_bitlen (v : Nat) : v < 2 ^ bitlen v := by
  unfold bitlen
  split
  · simp_all
  · exact Nat.lt_log2_self

theorem two_pow_bitlen_le {v : Nat} (h : v ≠ 0) : 2 ^ (bitlen v - 1) ≤ v := by
  simp only [bitlen, h, if_false, Nat.add_sub_cancel]
  exact Nat.log2_self_le h

theorem bitlen_pos {v : Nat} (h : v ≠ 0) : 1 ≤ bitlen v := by
  simp [bitlen, h]

theorem bitlen_le_iff (v n : Nat) : bitlen v ≤ n ↔ v < 2 ^ n := by
  constructor
  · intro h
    exact lt_of_lt_of_le (lt_two_pow_bitlen v) (Nat.pow_le_pow_right (by omega) h)
  · intro h
    by_cases hv : v = 0
    · simp [hv, bitlen]
    · have h1 := two_pow_bitlen_le hv
      have h2 : bitlen v - 1 < n := (Nat.pow_lt_pow_iff_right (a := 2) (by omega)).mp (lt_of_le_of_lt h1 h)
      omega

/-- The bits above i, shifted, with bit i below them. -/
theorem div_two_pow_succ (v i : Nat) : v / 2 ^ i = 2 * (v / 2 ^ (i + 1)) + (if bit v i then 1 else 0) := by
  have h : v / 2 ^ (i + 1) = v / 2 ^ i / 2 := by rw [Nat.pow_succ, Nat.div_div_eq_div_mul]
  rw [h]
  unfold bit
  rcases Nat.mod_two_eq_zero_or_one (v / 2 ^ i) with h2 | h2 <;> simp [h2] <;> omega

/-! Modular inverse (R16). -/

theorem euclid_gcd (m fuel : Nat) : ∀ r0 r1 t0 t1, r1 ≤ fuel → (euclid m fuel r0 r1 t0 t1).1 = Nat.gcd r0 r1 := by
  induction fuel with
  | zero => intro r0 r1 t0 t1 h; simp [euclid, Nat.le_zero.mp h]
  | succ fuel ih =>
    intro r0 r1 t0 t1 h
    unfold euclid
    split
    · simp_all
    · next h1 =>
      have hlt := Nat.mod_lt r0 (Nat.pos_of_ne_zero h1)
      rw [ih _ _ _ _ (by omega), Nat.gcd_comm r0 r1, Nat.gcd_rec r1 r0, Nat.gcd_comm]

theorem euclid_lt {m : Nat} (hm : 0 < m) (fuel : Nat) :
    ∀ r0 r1 t0 t1, t0 < m → t1 < m → (euclid m fuel r0 r1 t0 t1).2 < m := by
  induction fuel with
  | zero => intro r0 r1 t0 t1 h _; simpa [euclid] using h
  | succ fuel ih =>
    intro r0 r1 t0 t1 h0 h1
    unfold euclid
    split
    · exact h0
    · exact ih _ _ _ _ h1 (emod_lt _ hm)

theorem euclid_bezout {m : Nat} (hm : 0 < m) (a : Int) (fuel : Nat) : ∀ r0 r1 t0 t1 : Nat,
    (t0 : Int) * a ≡ r0 [ZMOD m] → (t1 : Int) * a ≡ r1 [ZMOD m] →
      ((euclid m fuel r0 r1 t0 t1).2 : Int) * a ≡ (euclid m fuel r0 r1 t0 t1).1 [ZMOD m] := by
  induction fuel with
  | zero => intro r0 r1 t0 t1 h _; simpa [euclid] using h
  | succ fuel ih =>
    intro r0 r1 t0 t1 h0 h1
    unfold euclid
    split
    · exact h0
    · refine ih _ _ _ _ h1 ?_
      have e := (emod_modEq ((t0 : Int) - (r0 / r1 : Nat) * t1) hm).mul_right a
      refine e.trans ?_
      have key : ((t0 : Int) - (r0 / r1 : Nat) * t1) * a ≡ r0 - (r0 / r1 : Nat) * r1 [ZMOD m] := by
        have := h0.sub (h1.mul_left ((r0 / r1 : Nat) : Int))
        simpa [sub_mul, mul_assoc] using this
      refine key.trans ?_
      have hdm : ((r0 % r1 : Nat) : Int) = r0 - (r0 / r1 : Nat) * r1 := by
        have := Nat.div_add_mod r0 r1
        have h' : (r0 : Int) = r1 * (r0 / r1 : Nat) + (r0 % r1 : Nat) := by exact_mod_cast this.symm
        linarith
      rw [hdm]

theorem inv_eq_some {a : Int} {m x : Nat} (hm : 2 ≤ m) (h : inv a m = some x) :
    x < m ∧ a * x ≡ 1 [ZMOD m] := by
  unfold inv at h
  have hm0 : 0 < m := by omega
  have hb := euclid_bezout hm0 a m m (emod a m) 0 1 (by simpa using (Int.modEq_zero_iff_dvd.mpr dvd_rfl).symm)
    (by simpa using (emod_modEq a hm0).symm)
  have hl := euclid_lt hm0 m m (emod a m) 0 1 hm0 (by omega)
  generalize euclid m m m (emod a m) 0 1 = e at h hb hl
  obtain ⟨g, t⟩ := e
  simp only at h hb hl
  split at h
  · next hg =>
    cases h
    subst hg
    exact ⟨hl, by simpa [mul_comm] using hb⟩
  · cases h

theorem inv_isSome_iff {a : Int} {m : Nat} (hm : 2 ≤ m) : (inv a m).isSome ↔ Nat.Coprime (emod a m) m := by
  unfold inv
  have hg := euclid_gcd m m m (emod a m) 0 1 (emod_lt a (by omega)).le
  generalize euclid m m m (emod a m) 0 1 = e at hg
  obtain ⟨g, t⟩ := e
  simp only at hg
  rw [Nat.gcd_comm] at hg
  by_cases h1 : g = 1
  · simp [h1, Nat.Coprime, ← hg]
  · simp [h1, Nat.Coprime, ← hg]

theorem inv_eq_none_iff {a : Int} {m : Nat} (hm : 2 ≤ m) : inv a m = none ↔ ¬ Nat.Coprime (emod a m) m := by
  rw [← inv_isSome_iff hm]; simp

theorem coprime_emod_iff (a m : Nat) : Nat.Coprime (emod (a : Int) m) m ↔ Nat.Coprime a m := by
  rw [emod_natCast]
  unfold Nat.Coprime
  rw [← Nat.gcd_rec, Nat.gcd_comm]

/-- The inverse is the one residue that a multiplies to 1 (R16). -/
theorem inv_eq_some_of {a : Int} {m x : Nat} (hm : 2 ≤ m) (hx : x < m) (h : a * x ≡ 1 [ZMOD m]) :
    inv a m = some x := by
  have hcop : Nat.Coprime (emod a m) m := by
    have h1 : ((emod a m : Nat) : Int) * x ≡ 1 [ZMOD m] := ((emod_modEq a (by omega)).mul_right x).trans h
    have h2 : emod a m * x ≡ 1 [MOD m] := by
      have : ((emod a m * x : Nat) : Int) ≡ ((1 : Nat) : Int) [ZMOD m] := by push_cast; exact h1
      exact Int.natCast_modEq_iff.mp this
    exact Nat.coprime_of_mul_modEq_one x h2
  obtain ⟨y, hy⟩ := Option.isSome_iff_exists.mp ((inv_isSome_iff hm).mpr hcop)
  obtain ⟨hym, hya⟩ := inv_eq_some hm hy
  have e : (y : Int) ≡ x [ZMOD m] := by
    have h3 : (y : Int) * (a * x) ≡ y * 1 [ZMOD m] := h.mul_left y
    have h4 : (x : Int) * (a * y) ≡ x * 1 [ZMOD m] := hya.mul_left x
    have h5 : (y : Int) * (a * x) = x * (a * y) := by ring
    rw [h5] at h3
    simpa using h3.symm.trans h4
  have : y ≡ x [MOD m] := Int.natCast_modEq_iff.mp e
  rw [hy, Nat.ModEq.eq_of_lt_of_lt this hym hx]

/-! Modular exponentiation (R124). -/

theorem powLoop_eq (base exp m : Nat) : ∀ i acc, acc % m = base ^ (exp / 2 ^ i) % m →
    powLoop base exp m i acc % m = base ^ exp % m := by
  intro i
  induction i with
  | zero => intro acc h; simpa [powLoop] using h
  | succ i ih =>
    intro acc h
    unfold powLoop
    apply ih
    rw [div_two_pow_succ exp i]
    generalize exp / 2 ^ (i + 1) = e at h ⊢
    have sq : acc * acc % m = base ^ (2 * e) % m := by
      rw [Nat.mul_mod, h, ← Nat.mul_mod, two_mul, pow_add]

    split
    · rw [Nat.mod_mod, Nat.mod_mul_mod, Nat.mul_mod, sq, ← Nat.mul_mod, pow_succ]
    · rw [Nat.mod_mod, sq, add_zero]

theorem powLoop_lt (base exp : Nat) {m : Nat} (hm : 0 < m) : ∀ i acc, acc < m → powLoop base exp m i acc < m := by
  intro i
  induction i with
  | zero => intro acc h; simpa [powLoop] using h
  | succ i ih =>
    intro acc _
    unfold powLoop
    apply ih
    split <;> exact Nat.mod_lt _ hm

/-- The exponentiation unit computes the power reduced (R124). -/
theorem powMod_eq (base exp : Nat) {m : Nat} (hm : 0 < m) : powMod base exp m = base ^ exp % m := by
  have h := powLoop_eq base exp m (bitlen exp) (1 % m)
    (by rw [Nat.div_eq_of_lt (lt_two_pow_bitlen exp), pow_zero, Nat.mod_mod])
  rwa [Nat.mod_eq_of_lt (powLoop_lt base exp hm _ _ (Nat.mod_lt _ hm))] at h

/-! The Montgomery radix (R120). -/

theorem bitlen_le_radixBits (m : Nat) : bitlen m ≤ radixBits m := by
  unfold radixBits Config.mword; omega

theorem lt_radix (m : Nat) : m < radix m :=
  lt_of_lt_of_le (lt_two_pow_bitlen m) (Nat.pow_le_pow_right (by omega) (bitlen_le_radixBits m))

theorem coprime_radix {m : Nat} (h : m % 2 = 1) : Nat.Coprime (radix m) m :=
  Nat.Coprime.pow_left _ (Nat.coprime_two_left.mpr (Nat.odd_iff.mpr h))

/-- The inverse of the radix exists, and radixInv is it (R120). -/
theorem radixInv_spec {m : Nat} (h : m % 2 = 1) (h3 : 3 ≤ m) :
    inv (radix m) m = some (radixInv m) ∧ radixInv m < m ∧ (radix m : Int) * radixInv m ≡ 1 [ZMOD m] := by
  have hs : (inv (radix m) m).isSome :=
    (inv_isSome_iff (by omega)).mpr ((coprime_emod_iff _ _).mpr (coprime_radix h))
  obtain ⟨x, hx⟩ := Option.isSome_iff_exists.mp hs
  have hr : radixInv m = x := by simp [radixInv, hx]
  rw [hr]
  exact ⟨hx, inv_eq_some (by omega) hx⟩

/-! Bytes (R216). -/

@[simp] theorem bytesOfLength_length (n v : Nat) : (bytesOfLength n v).length = n := by simp [bytesOfLength]

theorem minimalBytes_zero : minimalBytes 0 = [] := rfl

/-- A number below 256^n has at most n bytes. -/
theorem minimalBytes_length_le {v n : Nat} (h : v < 256 ^ n) : (minimalBytes v).length ≤ n := by
  have h2 : v < 2 ^ (8 * n) := by
    have : (256 : Nat) ^ n = 2 ^ (8 * n) := by rw [pow_mul]; norm_num
    omega
  have := (bitlen_le_iff v (8 * n)).mpr h2
  simp only [minimalBytes, bytesOfLength_length]
  omega

end Sys2Proof.Laws
end

