-- ==== Sys2Proof/Laws/State.lean ====
section
/-! SUPPORT. One lemma per field per update of State, each true by rfl, so that no proof unfolds a record update. -/

namespace Sys2Proof.Laws

open Sys2Proof.Machine

/-! writeBig -/

@[simp] theorem writeBig_par (s : State) (d : BReg) (v : Nat) : (s.writeBig d v).par = s.par := rfl
@[simp] theorem writeBig_big (s : State) (d : BReg) (v : Nat) : (s.writeBig d v).big = s.big.set d.val (BigReg.full s.par v) d.isLt := rfl
@[simp] theorem writeBig_pt (s : State) (d : BReg) (v : Nat) : (s.writeBig d v).pt = s.pt := rfl
@[simp] theorem writeBig_cfg (s : State) (d : BReg) (v : Nat) : (s.writeBig d v).cfg = s.cfg := rfl
@[simp] theorem writeBig_ie (s : State) (d : BReg) (v : Nat) : (s.writeBig d v).ie = s.ie := rfl
@[simp] theorem writeBig_lock (s : State) (d : BReg) (v : Nat) : (s.writeBig d v).lock = s.lock := rfl
@[simp] theorem writeBig_done (s : State) (d : BReg) (v : Nat) : (s.writeBig d v).done = s.done := rfl
@[simp] theorem writeBig_result (s : State) (d : BReg) (v : Nat) : (s.writeBig d v).result = s.result := rfl
@[simp] theorem writeBig_cmdovr (s : State) (d : BReg) (v : Nat) : (s.writeBig d v).cmdovr = s.cmdovr := rfl
@[simp] theorem writeBig_wrdrop (s : State) (d : BReg) (v : Nat) : (s.writeBig d v).wrdrop = s.wrdrop := rfl
@[simp] theorem writeBig_cmd (s : State) (d : BReg) (v : Nat) : (s.writeBig d v).cmd = s.cmd := rfl
@[simp] theorem writeBig_err (s : State) (d : BReg) (v : Nat) : (s.writeBig d v).err = s.err := rfl
@[simp] theorem writeBig_tries (s : State) (d : BReg) (v : Nat) : (s.writeBig d v).tries = s.tries := rfl
@[simp] theorem writeBig_signmax (s : State) (d : BReg) (v : Nat) : (s.writeBig d v).signmax = s.signmax := rfl
@[simp] theorem writeBig_phase (s : State) (d : BReg) (v : Nat) : (s.writeBig d v).phase = s.phase := rfl
@[simp] theorem writeBig_resetLine (s : State) (d : BReg) (v : Nat) : (s.writeBig d v).resetLine = s.resetLine := rfl
@[simp] theorem writeBig_inputs (s : State) (d : BReg) (v : Nat) : (s.writeBig d v).inputs = s.inputs := rfl
@[simp] theorem writeBig_draws (s : State) (d : BReg) (v : Nat) : (s.writeBig d v).draws = s.draws := rfl
@[simp] theorem writeBig_resp (s : State) (d : BReg) (v : Nat) : (s.writeBig d v).resp = s.resp := rfl
@[simp] theorem writeBig_unwrittenOperand (s : State) (d : BReg) (v : Nat) : (s.writeBig d v).unwrittenOperand = s.unwrittenOperand := rfl

/-! writePoint -/

@[simp] theorem writePoint_par (s : State) (d : PReg) (q : Point) : (s.writePoint d q).par = s.par := rfl
@[simp] theorem writePoint_big (s : State) (d : PReg) (q : Point) : (s.writePoint d q).big = s.big := rfl
@[simp] theorem writePoint_pt (s : State) (d : PReg) (q : Point) : (s.writePoint d q).pt = s.pt.set d.val (PointReg.full s.par q) d.isLt := rfl
@[simp] theorem writePoint_cfg (s : State) (d : PReg) (q : Point) : (s.writePoint d q).cfg = s.cfg := rfl
@[simp] theorem writePoint_ie (s : State) (d : PReg) (q : Point) : (s.writePoint d q).ie = s.ie := rfl
@[simp] theorem writePoint_lock (s : State) (d : PReg) (q : Point) : (s.writePoint d q).lock = s.lock := rfl
@[simp] theorem writePoint_done (s : State) (d : PReg) (q : Point) : (s.writePoint d q).done = s.done := rfl
@[simp] theorem writePoint_result (s : State) (d : PReg) (q : Point) : (s.writePoint d q).result = s.result := rfl
@[simp] theorem writePoint_cmdovr (s : State) (d : PReg) (q : Point) : (s.writePoint d q).cmdovr = s.cmdovr := rfl
@[simp] theorem writePoint_wrdrop (s : State) (d : PReg) (q : Point) : (s.writePoint d q).wrdrop = s.wrdrop := rfl
@[simp] theorem writePoint_cmd (s : State) (d : PReg) (q : Point) : (s.writePoint d q).cmd = s.cmd := rfl
@[simp] theorem writePoint_err (s : State) (d : PReg) (q : Point) : (s.writePoint d q).err = s.err := rfl
@[simp] theorem writePoint_tries (s : State) (d : PReg) (q : Point) : (s.writePoint d q).tries = s.tries := rfl
@[simp] theorem writePoint_signmax (s : State) (d : PReg) (q : Point) : (s.writePoint d q).signmax = s.signmax := rfl
@[simp] theorem writePoint_phase (s : State) (d : PReg) (q : Point) : (s.writePoint d q).phase = s.phase := rfl
@[simp] theorem writePoint_resetLine (s : State) (d : PReg) (q : Point) : (s.writePoint d q).resetLine = s.resetLine := rfl
@[simp] theorem writePoint_inputs (s : State) (d : PReg) (q : Point) : (s.writePoint d q).inputs = s.inputs := rfl
@[simp] theorem writePoint_draws (s : State) (d : PReg) (q : Point) : (s.writePoint d q).draws = s.draws := rfl
@[simp] theorem writePoint_resp (s : State) (d : PReg) (q : Point) : (s.writePoint d q).resp = s.resp := rfl
@[simp] theorem writePoint_unwrittenOperand (s : State) (d : PReg) (q : Point) : (s.writePoint d q).unwrittenOperand = s.unwrittenOperand := rfl

/-! writeTries -/

@[simp] theorem writeTries_par (s : State) (n : Nat) : (s.writeTries n).par = s.par := rfl
@[simp] theorem writeTries_big (s : State) (n : Nat) : (s.writeTries n).big = s.big := rfl
@[simp] theorem writeTries_pt (s : State) (n : Nat) : (s.writeTries n).pt = s.pt := rfl
@[simp] theorem writeTries_cfg (s : State) (n : Nat) : (s.writeTries n).cfg = s.cfg := rfl
@[simp] theorem writeTries_ie (s : State) (n : Nat) : (s.writeTries n).ie = s.ie := rfl
@[simp] theorem writeTries_lock (s : State) (n : Nat) : (s.writeTries n).lock = s.lock := rfl
@[simp] theorem writeTries_done (s : State) (n : Nat) : (s.writeTries n).done = s.done := rfl
@[simp] theorem writeTries_result (s : State) (n : Nat) : (s.writeTries n).result = s.result := rfl
@[simp] theorem writeTries_cmdovr (s : State) (n : Nat) : (s.writeTries n).cmdovr = s.cmdovr := rfl
@[simp] theorem writeTries_wrdrop (s : State) (n : Nat) : (s.writeTries n).wrdrop = s.wrdrop := rfl
@[simp] theorem writeTries_cmd (s : State) (n : Nat) : (s.writeTries n).cmd = s.cmd := rfl
@[simp] theorem writeTries_err (s : State) (n : Nat) : (s.writeTries n).err = s.err := rfl
@[simp] theorem writeTries_tries (s : State) (n : Nat) : (s.writeTries n).tries = BitVec.ofNat 8 n := rfl
@[simp] theorem writeTries_signmax (s : State) (n : Nat) : (s.writeTries n).signmax = s.signmax := rfl
@[simp] theorem writeTries_phase (s : State) (n : Nat) : (s.writeTries n).phase = s.phase := rfl
@[simp] theorem writeTries_resetLine (s : State) (n : Nat) : (s.writeTries n).resetLine = s.resetLine := rfl
@[simp] theorem writeTries_inputs (s : State) (n : Nat) : (s.writeTries n).inputs = s.inputs := rfl
@[simp] theorem writeTries_draws (s : State) (n : Nat) : (s.writeTries n).draws = s.draws := rfl
@[simp] theorem writeTries_resp (s : State) (n : Nat) : (s.writeTries n).resp = s.resp := rfl
@[simp] theorem writeTries_unwrittenOperand (s : State) (n : Nat) : (s.writeTries n).unwrittenOperand = s.unwrittenOperand := rfl

/-! accept -/

@[simp] theorem accept_par (s : State) (w : Word) : (s.accept w).par = s.par := rfl
@[simp] theorem accept_big (s : State) (w : Word) : (s.accept w).big = s.big := rfl
@[simp] theorem accept_pt (s : State) (w : Word) : (s.accept w).pt = s.pt := rfl
@[simp] theorem accept_cfg (s : State) (w : Word) : (s.accept w).cfg = s.cfg := rfl
@[simp] theorem accept_ie (s : State) (w : Word) : (s.accept w).ie = s.ie := rfl
@[simp] theorem accept_lock (s : State) (w : Word) : (s.accept w).lock = s.lock := rfl
@[simp] theorem accept_done (s : State) (w : Word) : (s.accept w).done = false := rfl
@[simp] theorem accept_result (s : State) (w : Word) : (s.accept w).result = false := rfl
@[simp] theorem accept_cmdovr (s : State) (w : Word) : (s.accept w).cmdovr = s.cmdovr := rfl
@[simp] theorem accept_wrdrop (s : State) (w : Word) : (s.accept w).wrdrop = s.wrdrop := rfl
@[simp] theorem accept_cmd (s : State) (w : Word) : (s.accept w).cmd = w := rfl
@[simp] theorem accept_err (s : State) (w : Word) : (s.accept w).err = .none := rfl
@[simp] theorem accept_tries (s : State) (w : Word) : (s.accept w).tries = s.tries := rfl
@[simp] theorem accept_signmax (s : State) (w : Word) : (s.accept w).signmax = s.signmax := rfl
@[simp] theorem accept_phase (s : State) (w : Word) : (s.accept w).phase = .busy w s.liveSnapshot := rfl
@[simp] theorem accept_resetLine (s : State) (w : Word) : (s.accept w).resetLine = s.resetLine := rfl
@[simp] theorem accept_inputs (s : State) (w : Word) : (s.accept w).inputs = s.inputs := rfl
@[simp] theorem accept_draws (s : State) (w : Word) : (s.accept w).draws = s.draws := rfl
@[simp] theorem accept_resp (s : State) (w : Word) : (s.accept w).resp = s.resp := rfl
@[simp] theorem accept_unwrittenOperand (s : State) (w : Word) : (s.accept w).unwrittenOperand = s.unwrittenOperand := rfl

/-! finish -/

@[simp] theorem finish_par (s : State) (c : ErrCode) (b : Bool) : (s.finish c b).par = s.par := rfl
@[simp] theorem finish_big (s : State) (c : ErrCode) (b : Bool) : (s.finish c b).big = s.big := rfl
@[simp] theorem finish_pt (s : State) (c : ErrCode) (b : Bool) : (s.finish c b).pt = s.pt := rfl
@[simp] theorem finish_cfg (s : State) (c : ErrCode) (b : Bool) : (s.finish c b).cfg = s.cfg := rfl
@[simp] theorem finish_ie (s : State) (c : ErrCode) (b : Bool) : (s.finish c b).ie = s.ie := rfl
@[simp] theorem finish_lock (s : State) (c : ErrCode) (b : Bool) : (s.finish c b).lock = s.lock := rfl
@[simp] theorem finish_done (s : State) (c : ErrCode) (b : Bool) : (s.finish c b).done = true := rfl
@[simp] theorem finish_result (s : State) (c : ErrCode) (b : Bool) : (s.finish c b).result = b := rfl
@[simp] theorem finish_cmdovr (s : State) (c : ErrCode) (b : Bool) : (s.finish c b).cmdovr = s.cmdovr := rfl
@[simp] theorem finish_wrdrop (s : State) (c : ErrCode) (b : Bool) : (s.finish c b).wrdrop = s.wrdrop := rfl
@[simp] theorem finish_cmd (s : State) (c : ErrCode) (b : Bool) : (s.finish c b).cmd = s.cmd := rfl
@[simp] theorem finish_err (s : State) (c : ErrCode) (b : Bool) : (s.finish c b).err = c := rfl
@[simp] theorem finish_tries (s : State) (c : ErrCode) (b : Bool) : (s.finish c b).tries = s.tries := rfl
@[simp] theorem finish_signmax (s : State) (c : ErrCode) (b : Bool) : (s.finish c b).signmax = s.signmax := rfl
@[simp] theorem finish_phase (s : State) (c : ErrCode) (b : Bool) : (s.finish c b).phase = .idle := rfl
@[simp] theorem finish_resetLine (s : State) (c : ErrCode) (b : Bool) : (s.finish c b).resetLine = s.resetLine := rfl
@[simp] theorem finish_inputs (s : State) (c : ErrCode) (b : Bool) : (s.finish c b).inputs = s.inputs := rfl
@[simp] theorem finish_draws (s : State) (c : ErrCode) (b : Bool) : (s.finish c b).draws = s.draws := rfl
@[simp] theorem finish_resp (s : State) (c : ErrCode) (b : Bool) : (s.finish c b).resp = s.resp := rfl
@[simp] theorem finish_unwrittenOperand (s : State) (c : ErrCode) (b : Bool) : (s.finish c b).unwrittenOperand = s.unwrittenOperand := rfl

/-! clearStatus -/

@[simp] theorem clearStatus_par (s : State) (v : Word) : (s.clearStatus v).par = s.par := rfl
@[simp] theorem clearStatus_big (s : State) (v : Word) : (s.clearStatus v).big = s.big := rfl
@[simp] theorem clearStatus_pt (s : State) (v : Word) : (s.clearStatus v).pt = s.pt := rfl
@[simp] theorem clearStatus_cfg (s : State) (v : Word) : (s.clearStatus v).cfg = s.cfg := rfl
@[simp] theorem clearStatus_ie (s : State) (v : Word) : (s.clearStatus v).ie = s.ie := rfl
@[simp] theorem clearStatus_lock (s : State) (v : Word) : (s.clearStatus v).lock = s.lock := rfl
@[simp] theorem clearStatus_done (s : State) (v : Word) : (s.clearStatus v).done = (s.done && !v.getLsbD 1) := rfl
@[simp] theorem clearStatus_result (s : State) (v : Word) : (s.clearStatus v).result = s.result := rfl
@[simp] theorem clearStatus_cmdovr (s : State) (v : Word) : (s.clearStatus v).cmdovr = (s.cmdovr && !v.getLsbD 4) := rfl
@[simp] theorem clearStatus_wrdrop (s : State) (v : Word) : (s.clearStatus v).wrdrop = (s.wrdrop && !v.getLsbD 5) := rfl
@[simp] theorem clearStatus_cmd (s : State) (v : Word) : (s.clearStatus v).cmd = s.cmd := rfl
@[simp] theorem clearStatus_err (s : State) (v : Word) : (s.clearStatus v).err = s.err := rfl
@[simp] theorem clearStatus_tries (s : State) (v : Word) : (s.clearStatus v).tries = s.tries := rfl
@[simp] theorem clearStatus_signmax (s : State) (v : Word) : (s.clearStatus v).signmax = s.signmax := rfl
@[simp] theorem clearStatus_phase (s : State) (v : Word) : (s.clearStatus v).phase = s.phase := rfl
@[simp] theorem clearStatus_resetLine (s : State) (v : Word) : (s.clearStatus v).resetLine = s.resetLine := rfl
@[simp] theorem clearStatus_inputs (s : State) (v : Word) : (s.clearStatus v).inputs = s.inputs := rfl
@[simp] theorem clearStatus_draws (s : State) (v : Word) : (s.clearStatus v).draws = s.draws := rfl
@[simp] theorem clearStatus_resp (s : State) (v : Word) : (s.clearStatus v).resp = s.resp := rfl
@[simp] theorem clearStatus_unwrittenOperand (s : State) (v : Word) : (s.clearStatus v).unwrittenOperand = s.unwrittenOperand := rfl

/-! writeCtrl -/

@[simp] theorem writeCtrl_par (s : State) (v : Word) : (s.writeCtrl v).par = s.par := rfl
@[simp] theorem writeCtrl_big (s : State) (v : Word) : (s.writeCtrl v).big = s.big := rfl
@[simp] theorem writeCtrl_pt (s : State) (v : Word) : (s.writeCtrl v).pt = s.pt := rfl
@[simp] theorem writeCtrl_cfg (s : State) (v : Word) : (s.writeCtrl v).cfg = s.cfg := rfl
@[simp] theorem writeCtrl_ie (s : State) (v : Word) : (s.writeCtrl v).ie = v.getLsbD 0 := rfl
@[simp] theorem writeCtrl_lock (s : State) (v : Word) : (s.writeCtrl v).lock = (s.lock || v.getLsbD 1) := rfl
@[simp] theorem writeCtrl_done (s : State) (v : Word) : (s.writeCtrl v).done = s.done := rfl
@[simp] theorem writeCtrl_result (s : State) (v : Word) : (s.writeCtrl v).result = s.result := rfl
@[simp] theorem writeCtrl_cmdovr (s : State) (v : Word) : (s.writeCtrl v).cmdovr = s.cmdovr := rfl
@[simp] theorem writeCtrl_wrdrop (s : State) (v : Word) : (s.writeCtrl v).wrdrop = s.wrdrop := rfl
@[simp] theorem writeCtrl_cmd (s : State) (v : Word) : (s.writeCtrl v).cmd = s.cmd := rfl
@[simp] theorem writeCtrl_err (s : State) (v : Word) : (s.writeCtrl v).err = s.err := rfl
@[simp] theorem writeCtrl_tries (s : State) (v : Word) : (s.writeCtrl v).tries = s.tries := rfl
@[simp] theorem writeCtrl_signmax (s : State) (v : Word) : (s.writeCtrl v).signmax = s.signmax := rfl
@[simp] theorem writeCtrl_phase (s : State) (v : Word) : (s.writeCtrl v).phase = s.phase := rfl
@[simp] theorem writeCtrl_resetLine (s : State) (v : Word) : (s.writeCtrl v).resetLine = s.resetLine := rfl
@[simp] theorem writeCtrl_inputs (s : State) (v : Word) : (s.writeCtrl v).inputs = s.inputs := rfl
@[simp] theorem writeCtrl_draws (s : State) (v : Word) : (s.writeCtrl v).draws = s.draws := rfl
@[simp] theorem writeCtrl_resp (s : State) (v : Word) : (s.writeCtrl v).resp = s.resp := rfl
@[simp] theorem writeCtrl_unwrittenOperand (s : State) (v : Word) : (s.writeCtrl v).unwrittenOperand = s.unwrittenOperand := rfl

/-! storeBig -/

@[simp] theorem storeBig_par (s : State) (i : BReg) (k : Nat) (w : Word) : (s.storeBig i k w).par = s.par := rfl
@[simp] theorem storeBig_big (s : State) (i : BReg) (k : Nat) (w : Word) : (s.storeBig i k w).big = s.big.set i.val (s.big[i].storeWord k w) i.isLt := rfl
@[simp] theorem storeBig_pt (s : State) (i : BReg) (k : Nat) (w : Word) : (s.storeBig i k w).pt = s.pt := rfl
@[simp] theorem storeBig_cfg (s : State) (i : BReg) (k : Nat) (w : Word) : (s.storeBig i k w).cfg = s.cfg := rfl
@[simp] theorem storeBig_ie (s : State) (i : BReg) (k : Nat) (w : Word) : (s.storeBig i k w).ie = s.ie := rfl
@[simp] theorem storeBig_lock (s : State) (i : BReg) (k : Nat) (w : Word) : (s.storeBig i k w).lock = s.lock := rfl
@[simp] theorem storeBig_done (s : State) (i : BReg) (k : Nat) (w : Word) : (s.storeBig i k w).done = s.done := rfl
@[simp] theorem storeBig_result (s : State) (i : BReg) (k : Nat) (w : Word) : (s.storeBig i k w).result = s.result := rfl
@[simp] theorem storeBig_cmdovr (s : State) (i : BReg) (k : Nat) (w : Word) : (s.storeBig i k w).cmdovr = s.cmdovr := rfl
@[simp] theorem storeBig_wrdrop (s : State) (i : BReg) (k : Nat) (w : Word) : (s.storeBig i k w).wrdrop = s.wrdrop := rfl
@[simp] theorem storeBig_cmd (s : State) (i : BReg) (k : Nat) (w : Word) : (s.storeBig i k w).cmd = s.cmd := rfl
@[simp] theorem storeBig_err (s : State) (i : BReg) (k : Nat) (w : Word) : (s.storeBig i k w).err = s.err := rfl
@[simp] theorem storeBig_tries (s : State) (i : BReg) (k : Nat) (w : Word) : (s.storeBig i k w).tries = s.tries := rfl
@[simp] theorem storeBig_signmax (s : State) (i : BReg) (k : Nat) (w : Word) : (s.storeBig i k w).signmax = s.signmax := rfl
@[simp] theorem storeBig_phase (s : State) (i : BReg) (k : Nat) (w : Word) : (s.storeBig i k w).phase = s.phase := rfl
@[simp] theorem storeBig_resetLine (s : State) (i : BReg) (k : Nat) (w : Word) : (s.storeBig i k w).resetLine = s.resetLine := rfl
@[simp] theorem storeBig_inputs (s : State) (i : BReg) (k : Nat) (w : Word) : (s.storeBig i k w).inputs = s.inputs := rfl
@[simp] theorem storeBig_draws (s : State) (i : BReg) (k : Nat) (w : Word) : (s.storeBig i k w).draws = s.draws := rfl
@[simp] theorem storeBig_resp (s : State) (i : BReg) (k : Nat) (w : Word) : (s.storeBig i k w).resp = s.resp := rfl
@[simp] theorem storeBig_unwrittenOperand (s : State) (i : BReg) (k : Nat) (w : Word) : (s.storeBig i k w).unwrittenOperand = s.unwrittenOperand := rfl

/-! storePoint -/

@[simp] theorem storePoint_par (s : State) (j : PReg) (r : PointReg) : (s.storePoint j r).par = s.par := rfl
@[simp] theorem storePoint_big (s : State) (j : PReg) (r : PointReg) : (s.storePoint j r).big = s.big := rfl
@[simp] theorem storePoint_pt (s : State) (j : PReg) (r : PointReg) : (s.storePoint j r).pt = s.pt.set j.val r j.isLt := rfl
@[simp] theorem storePoint_cfg (s : State) (j : PReg) (r : PointReg) : (s.storePoint j r).cfg = s.cfg := rfl
@[simp] theorem storePoint_ie (s : State) (j : PReg) (r : PointReg) : (s.storePoint j r).ie = s.ie := rfl
@[simp] theorem storePoint_lock (s : State) (j : PReg) (r : PointReg) : (s.storePoint j r).lock = s.lock := rfl
@[simp] theorem storePoint_done (s : State) (j : PReg) (r : PointReg) : (s.storePoint j r).done = s.done := rfl
@[simp] theorem storePoint_result (s : State) (j : PReg) (r : PointReg) : (s.storePoint j r).result = s.result := rfl
@[simp] theorem storePoint_cmdovr (s : State) (j : PReg) (r : PointReg) : (s.storePoint j r).cmdovr = s.cmdovr := rfl
@[simp] theorem storePoint_wrdrop (s : State) (j : PReg) (r : PointReg) : (s.storePoint j r).wrdrop = s.wrdrop := rfl
@[simp] theorem storePoint_cmd (s : State) (j : PReg) (r : PointReg) : (s.storePoint j r).cmd = s.cmd := rfl
@[simp] theorem storePoint_err (s : State) (j : PReg) (r : PointReg) : (s.storePoint j r).err = s.err := rfl
@[simp] theorem storePoint_tries (s : State) (j : PReg) (r : PointReg) : (s.storePoint j r).tries = s.tries := rfl
@[simp] theorem storePoint_signmax (s : State) (j : PReg) (r : PointReg) : (s.storePoint j r).signmax = s.signmax := rfl
@[simp] theorem storePoint_phase (s : State) (j : PReg) (r : PointReg) : (s.storePoint j r).phase = s.phase := rfl
@[simp] theorem storePoint_resetLine (s : State) (j : PReg) (r : PointReg) : (s.storePoint j r).resetLine = s.resetLine := rfl
@[simp] theorem storePoint_inputs (s : State) (j : PReg) (r : PointReg) : (s.storePoint j r).inputs = s.inputs := rfl
@[simp] theorem storePoint_draws (s : State) (j : PReg) (r : PointReg) : (s.storePoint j r).draws = s.draws := rfl
@[simp] theorem storePoint_resp (s : State) (j : PReg) (r : PointReg) : (s.storePoint j r).resp = s.resp := rfl
@[simp] theorem storePoint_unwrittenOperand (s : State) (j : PReg) (r : PointReg) : (s.storePoint j r).unwrittenOperand = s.unwrittenOperand := rfl

/-! assertReset -/

@[simp] theorem assertReset_par (s : State) : (s.assertReset).par = s.par := rfl
@[simp] theorem assertReset_big (s : State) : (s.assertReset).big = State.reset.big := rfl
@[simp] theorem assertReset_pt (s : State) : (s.assertReset).pt = State.reset.pt := rfl
@[simp] theorem assertReset_cfg (s : State) : (s.assertReset).cfg = State.reset.cfg := rfl
@[simp] theorem assertReset_ie (s : State) : (s.assertReset).ie = State.reset.ie := rfl
@[simp] theorem assertReset_lock (s : State) : (s.assertReset).lock = State.reset.lock := rfl
@[simp] theorem assertReset_done (s : State) : (s.assertReset).done = State.reset.done := rfl
@[simp] theorem assertReset_result (s : State) : (s.assertReset).result = State.reset.result := rfl
@[simp] theorem assertReset_cmdovr (s : State) : (s.assertReset).cmdovr = State.reset.cmdovr := rfl
@[simp] theorem assertReset_wrdrop (s : State) : (s.assertReset).wrdrop = State.reset.wrdrop := rfl
@[simp] theorem assertReset_cmd (s : State) : (s.assertReset).cmd = State.reset.cmd := rfl
@[simp] theorem assertReset_err (s : State) : (s.assertReset).err = State.reset.err := rfl
@[simp] theorem assertReset_tries (s : State) : (s.assertReset).tries = State.reset.tries := rfl
@[simp] theorem assertReset_signmax (s : State) : (s.assertReset).signmax = State.reset.signmax := rfl
@[simp] theorem assertReset_phase (s : State) : (s.assertReset).phase = State.reset.phase := rfl
@[simp] theorem assertReset_resetLine (s : State) : (s.assertReset).resetLine = true := rfl
@[simp] theorem assertReset_inputs (s : State) : (s.assertReset).inputs = s.inputs := rfl
@[simp] theorem assertReset_draws (s : State) : (s.assertReset).draws = s.draws := rfl
@[simp] theorem assertReset_resp (s : State) : (s.assertReset).resp = s.resp := rfl
@[simp] theorem assertReset_unwrittenOperand (s : State) : (s.assertReset).unwrittenOperand = s.unwrittenOperand := rfl

/-! releaseReset -/

@[simp] theorem releaseReset_par (s : State) : (s.releaseReset).par = s.par := rfl
@[simp] theorem releaseReset_big (s : State) : (s.releaseReset).big = s.big := rfl
@[simp] theorem releaseReset_pt (s : State) : (s.releaseReset).pt = s.pt := rfl
@[simp] theorem releaseReset_cfg (s : State) : (s.releaseReset).cfg = s.cfg := rfl
@[simp] theorem releaseReset_ie (s : State) : (s.releaseReset).ie = s.ie := rfl
@[simp] theorem releaseReset_lock (s : State) : (s.releaseReset).lock = s.lock := rfl
@[simp] theorem releaseReset_done (s : State) : (s.releaseReset).done = s.done := rfl
@[simp] theorem releaseReset_result (s : State) : (s.releaseReset).result = s.result := rfl
@[simp] theorem releaseReset_cmdovr (s : State) : (s.releaseReset).cmdovr = s.cmdovr := rfl
@[simp] theorem releaseReset_wrdrop (s : State) : (s.releaseReset).wrdrop = s.wrdrop := rfl
@[simp] theorem releaseReset_cmd (s : State) : (s.releaseReset).cmd = s.cmd := rfl
@[simp] theorem releaseReset_err (s : State) : (s.releaseReset).err = s.err := rfl
@[simp] theorem releaseReset_tries (s : State) : (s.releaseReset).tries = s.tries := rfl
@[simp] theorem releaseReset_signmax (s : State) : (s.releaseReset).signmax = s.signmax := rfl
@[simp] theorem releaseReset_phase (s : State) : (s.releaseReset).phase = s.phase := rfl
@[simp] theorem releaseReset_resetLine (s : State) : (s.releaseReset).resetLine = false := rfl
@[simp] theorem releaseReset_inputs (s : State) : (s.releaseReset).inputs = s.inputs := rfl
@[simp] theorem releaseReset_draws (s : State) : (s.releaseReset).draws = s.draws := rfl
@[simp] theorem releaseReset_resp (s : State) : (s.releaseReset).resp = s.resp := rfl
@[simp] theorem releaseReset_unwrittenOperand (s : State) : (s.releaseReset).unwrittenOperand = s.unwrittenOperand := rfl

/-! The completions are `finish`. -/

@[simp] theorem succeed_eq (s : State) : s.succeed = s.finish .none false := rfl
@[simp] theorem succeedWith_eq (s : State) (b : Bool) : s.succeedWith b = s.finish .none b := rfl
@[simp] theorem completeError_eq (s : State) (c : ErrCode) : s.completeError c = s.finish c false := rfl
@[simp] theorem completeBig_ok (s : State) (d : BReg) (v : Nat) :
    s.completeBig d (.ok v) = (s.writeBig d v).finish .none false := rfl
@[simp] theorem completeBig_error (s : State) (d : BReg) (c : ErrCode) :
    s.completeBig d (.error c) = s.finish c false := rfl
@[simp] theorem completePoint_ok (s : State) (d : PReg) (q : Point) :
    s.completePoint d (.ok q) = (s.writePoint d q).finish .none false := rfl
@[simp] theorem completePoint_error (s : State) (d : PReg) (c : ErrCode) :
    s.completePoint d (.error c) = s.finish c false := rfl
@[simp] theorem completeBool_ok (s : State) (b : Bool) : s.completeBool (.ok b) = s.finish .none b := rfl
@[simp] theorem completeBool_error (s : State) (c : ErrCode) : s.completeBool (.error c) = s.finish c false := rfl

/-! The phase. -/

theorem busy_eq_true_iff (s : State) : s.busy = true ↔ ∃ w snap, s.phase = .busy w snap := by
  unfold State.busy; cases s.phase <;> simp

theorem busy_eq_false_iff (s : State) : s.busy = false ↔ s.phase = .idle := by
  unfold State.busy; cases s.phase <;> simp

theorem operands_busy {s : State} {w : Word} {snap : Snapshot} (h : s.phase = .busy w snap) : s.operands = snap := by
  simp [State.operands, h]

theorem operands_idle {s : State} (h : s.phase = .idle) : s.operands = s.liveSnapshot := by
  simp [State.operands, h]

/-! The register files. -/

theorem getElem_writeBig (s : State) (d : BReg) (v : Nat) (r : BReg) :
    (s.writeBig d v).big[r] = if r = d then BigReg.full s.par v else s.big[r] := by
  simp only [writeBig_big, Fin.getElem_fin, Vector.getElem_set, Fin.ext_iff, eq_comm]

theorem getElem_writePoint (s : State) (d : PReg) (q : Point) (r : PReg) :
    (s.writePoint d q).pt[r] = if r = d then PointReg.full s.par q else s.pt[r] := by
  simp only [writePoint_pt, Fin.getElem_fin, Vector.getElem_set, Fin.ext_iff, eq_comm]

theorem getElem_storeBig (s : State) (i : BReg) (k : Nat) (w : Word) (r : BReg) :
    (s.storeBig i k w).big[r] = if r = i then s.big[i].storeWord k w else s.big[r] := by
  simp only [storeBig_big, Fin.getElem_fin, Vector.getElem_set, Fin.ext_iff, eq_comm]

theorem getElem_storePoint (s : State) (j : PReg) (q : PointReg) (r : PReg) :
    (s.storePoint j q).pt[r] = if r = j then q else s.pt[r] := by
  simp only [storePoint_pt, Fin.getElem_fin, Vector.getElem_set, Fin.ext_iff, eq_comm]

/-! noteUnwritten -/

@[simp] theorem noteUnwritten_par (s : State) (i : Instr) : (s.noteUnwritten i).par = s.par := rfl
@[simp] theorem noteUnwritten_big (s : State) (i : Instr) : (s.noteUnwritten i).big = s.big := rfl
@[simp] theorem noteUnwritten_pt (s : State) (i : Instr) : (s.noteUnwritten i).pt = s.pt := rfl
@[simp] theorem noteUnwritten_cfg (s : State) (i : Instr) : (s.noteUnwritten i).cfg = s.cfg := rfl
@[simp] theorem noteUnwritten_ie (s : State) (i : Instr) : (s.noteUnwritten i).ie = s.ie := rfl
@[simp] theorem noteUnwritten_lock (s : State) (i : Instr) : (s.noteUnwritten i).lock = s.lock := rfl
@[simp] theorem noteUnwritten_done (s : State) (i : Instr) : (s.noteUnwritten i).done = s.done := rfl
@[simp] theorem noteUnwritten_result (s : State) (i : Instr) : (s.noteUnwritten i).result = s.result := rfl
@[simp] theorem noteUnwritten_cmdovr (s : State) (i : Instr) : (s.noteUnwritten i).cmdovr = s.cmdovr := rfl
@[simp] theorem noteUnwritten_wrdrop (s : State) (i : Instr) : (s.noteUnwritten i).wrdrop = s.wrdrop := rfl
@[simp] theorem noteUnwritten_cmd (s : State) (i : Instr) : (s.noteUnwritten i).cmd = s.cmd := rfl
@[simp] theorem noteUnwritten_err (s : State) (i : Instr) : (s.noteUnwritten i).err = s.err := rfl
@[simp] theorem noteUnwritten_tries (s : State) (i : Instr) : (s.noteUnwritten i).tries = s.tries := rfl
@[simp] theorem noteUnwritten_signmax (s : State) (i : Instr) : (s.noteUnwritten i).signmax = s.signmax := rfl
@[simp] theorem noteUnwritten_phase (s : State) (i : Instr) : (s.noteUnwritten i).phase = s.phase := rfl
@[simp] theorem noteUnwritten_resetLine (s : State) (i : Instr) : (s.noteUnwritten i).resetLine = s.resetLine := rfl
@[simp] theorem noteUnwritten_inputs (s : State) (i : Instr) : (s.noteUnwritten i).inputs = s.inputs := rfl
@[simp] theorem noteUnwritten_resp (s : State) (i : Instr) : (s.noteUnwritten i).resp = s.resp := rfl
@[simp] theorem noteUnwritten_unwrittenOperand (s : State) (i : Instr) :
    (s.noteUnwritten i).unwrittenOperand = some (s.unwrittenOperand.getD i) := rfl
@[simp] theorem noteUnwritten_rng (s : State) (i : Instr) : (s.noteUnwritten i).draws.rng = s.draws.rng := rfl
@[simp] theorem noteUnwritten_prime (s : State) (i : Instr) : (s.noteUnwritten i).draws.prime = s.draws.prime := rfl
@[simp] theorem noteUnwritten_free (s : State) (i : Instr) :
    (s.noteUnwritten i).draws.free = s.draws.free + Config.snapshotWords := rfl

end Sys2Proof.Laws
end

