-- ==== Sys2Proof/Laws/Words.lean ====
section
/-! SUPPORT. The words of a value and their written flags: read after write, independence of words, bounds, and when every
word of a register is written. -/

namespace Sys2Proof.Laws

open Sys2Proof.Machine

theorem legal_words_le {par : Params} (h : par.Legal) : par.words ≤ 128 := by
  unfold Params.words; omega

theorem legal_opw_eq {par : Params} (h : par.Legal) : par.opw = 32 * par.words := by
  unfold Params.words; omega

theorem legal_words_pos {par : Params} (h : par.Legal) : 8 ≤ par.words := by
  unfold Params.words; omega

theorem reference_legal : Params.reference.Legal := by decide

theorem testBit_withWord (v k : Nat) (w : Word) (i : Nat) :
    (withWord v k w).testBit i =
      if i < 32 * k then v.testBit i else if i < 32 * (k + 1) then w.toNat.testBit (i - 32 * k) else v.testBit i := by
  unfold withWord
  rw [Nat.add_comm, Nat.testBit_two_pow_mul_add _ (Nat.mod_lt _ (by positivity)), Nat.add_comm,
    Nat.testBit_two_pow_mul_add _ w.isLt]
  split
  · next h => rw [Nat.testBit_mod_two_pow]; simp [h]
  · next h =>
    by_cases h2 : i < 32 * (k + 1)
    · rw [if_pos (by omega), if_pos h2]
    · rw [if_neg (by omega), if_neg h2, Nat.testBit_div_two_pow]
      congr 1; omega

theorem getLsbD_wordOf (v k i : Nat) : (wordOf v k).getLsbD i = (decide (i < 32) && v.testBit (32 * k + i)) := by
  simp [wordOf, BitVec.getLsbD_ofNat, Nat.testBit_div_two_pow, Nat.add_comm]

/-- The word just written reads back (R66). -/
@[simp] theorem wordOf_withWord_same (v k : Nat) (w : Word) : wordOf (withWord v k w) k = w := by
  apply BitVec.eq_of_getLsbD_eq
  intro i hi
  rw [getLsbD_wordOf, testBit_withWord, if_neg (by omega), if_pos (by omega), Nat.add_sub_cancel_left]
  simp [hi, BitVec.getLsbD]

/-- Writing word k of a register changes no other word (R66). -/
theorem wordOf_withWord_ne (v : Nat) {k j : Nat} (w : Word) (h : j ≠ k) : wordOf (withWord v k w) j = wordOf v j := by
  apply BitVec.eq_of_getLsbD_eq
  intro i hi
  rw [getLsbD_wordOf, getLsbD_wordOf, testBit_withWord]
  by_cases h1 : 32 * j + i < 32 * k
  · rw [if_pos h1]
  · rw [if_neg h1, if_neg (by omega)]

/-- A value below 2^(32n) stays there when one of its n words is written (R21). -/
theorem withWord_lt {v n k : Nat} (w : Word) (hv : v < 2 ^ (32 * n)) (hk : k < n) : withWord v k w < 2 ^ (32 * n) := by
  apply Nat.lt_pow_two_of_testBit
  intro i hi
  rw [testBit_withWord, if_neg (by omega), if_neg (by omega)]
  exact Nat.testBit_lt_two_pow (lt_of_lt_of_le hv (Nat.pow_le_pow_right (by omega) hi))

/-- Values of n words are equal when their words are (R21). -/
theorem eq_of_words {u v n : Nat} (hu : u < 2 ^ (32 * n)) (hv : v < 2 ^ (32 * n))
    (h : ∀ k < n, wordOf u k = wordOf v k) : u = v := by
  apply Nat.eq_of_testBit_eq
  intro i
  by_cases hi : i < 32 * n
  · have hw := congrArg (fun x : Word => x.getLsbD (i % 32)) (h (i / 32) (by omega))
    simp only [getLsbD_wordOf, Nat.mod_lt i (show 0 < 32 by omega), decide_true, Bool.true_and] at hw
    rwa [Nat.div_add_mod] at hw
  · rw [Nat.testBit_lt_two_pow (lt_of_lt_of_le hu (Nat.pow_le_pow_right (by omega) (by omega))),
      Nat.testBit_lt_two_pow (lt_of_lt_of_le hv (Nat.pow_le_pow_right (by omega) (by omega)))]

theorem allWritten_iff (par : Params) (r : BigReg) :
    r.allWritten par = true ↔ ∀ k < par.words, r.written.getLsbD k = true := by
  simp [BigReg.allWritten]

theorem getLsbD_allFlags {par : Params} (h : par.words ≤ 128) (k : Nat) :
    (allFlags par).getLsbD k = decide (k < par.words) := by
  rw [allFlags, BitVec.getLsbD_ofNat, Nat.testBit_two_pow_sub_one]
  by_cases hk : k < par.words
  · simp [hk]; omega
  · simp [hk]

@[simp] theorem full_value (par : Params) (v : Nat) : (BigReg.full par v).value = v := rfl

/-- A register that a command wrote has every word written (R22). -/
theorem full_allWritten {par : Params} (h : par.words ≤ 128) (v : Nat) : (BigReg.full par v).allWritten par = true := by
  rw [allWritten_iff]
  intro k hk
  rw [BigReg.full, getLsbD_allFlags h]
  simpa using hk

/-- A host write makes its own word written, and leaves the other flags (R22, R66). -/
theorem storeWord_written (r : BigReg) (k : Nat) (w : Word) (j : Nat) :
    (r.storeWord k w).written.getLsbD j = (r.written.getLsbD j || (decide (k < 128) && decide (j = k))) := by
  simp only [BigReg.storeWord, BitVec.getLsbD_or, BitVec.getLsbD_twoPow]
  rw [show decide (k = j) = decide (j = k) from decide_eq_decide.mpr eq_comm]

@[simp] theorem storeWord_value (r : BigReg) (k : Nat) (w : Word) :
    (r.storeWord k w).value = withWord r.value k w := rfl

/-- A point register that a command wrote denotes the point (R24, R25). -/
@[simp] theorem full_point (par : Params) (q : Point) : (PointReg.full par q).point = q := by
  cases q <;> rfl

theorem full_neededWritten {par : Params} (h : par.words ≤ 128) (q : Point) :
    (PointReg.full par q).neededWritten par = true := by
  cases q <;> simp [PointReg.full, PointReg.neededWritten, full_allWritten h]

/-! Free values in place of unwritten words (R22; log 7). -/

/-- Filling the words of a list, from left to right. -/
def fillWords (r : BigReg) (free : Nat → Word) (ks : List Nat) (v : Nat) : Nat :=
  ks.foldl (fun v k => if r.written.getLsbD k then v else withWord v k (free k)) v

theorem wordOf_fillWords (r : BigReg) (free : Nat → Word) (j : Nat) : ∀ (ks : List Nat) (v : Nat),
    wordOf (fillWords r free ks v) j =
      if j ∈ ks ∧ r.written.getLsbD j = false then free j else wordOf v j := by
  intro ks
  induction ks with
  | nil => intro v; simp [fillWords]
  | cons k ks ih =>
    intro v
    have step : fillWords r free (k :: ks) v =
        fillWords r free ks (if r.written.getLsbD k then v else withWord v k (free k)) := rfl
    rw [step, ih]
    by_cases hj : j ∈ ks ∧ r.written.getLsbD j = false
    · rw [if_pos hj, if_pos ⟨List.mem_cons_of_mem _ hj.1, hj.2⟩]
    · rw [if_neg hj]
      by_cases hk : j = k
      · subst hk
        cases hw : r.written.getLsbD j <;> simp
      · have : ¬ (j ∈ k :: ks ∧ r.written.getLsbD j = false) := by
          rintro ⟨h1, h2⟩
          exact hj ⟨(List.mem_cons.mp h1).resolve_left hk, h2⟩
        rw [if_neg this]
        split
        · rfl
        · exact wordOf_withWord_ne _ _ hk

/-- Word by word, a filled register is the register where it is written and free where it is not (R22). -/
theorem wordOf_filled (par : Params) (free : Nat → Word) (r : BigReg) {k : Nat} (hk : k < par.words) :
    wordOf (r.filled par free).value k = if r.written.getLsbD k then wordOf r.value k else free k := by
  have h := wordOf_fillWords r free k (List.range par.words) r.value
  show wordOf (fillWords r free (List.range par.words) r.value) k = _
  rw [h]
  cases hw : r.written.getLsbD k <;> simp [hk]

/-- A filled register is a natural below 2^OPW where the register is (R21). -/
theorem filled_lt {par : Params} (h : par.Legal) {r : BigReg} (hr : r.value < 2 ^ par.opw) (free : Nat → Word) :
    (r.filled par free).value < 2 ^ par.opw := by
  rw [legal_opw_eq h] at hr ⊢
  show fillWords r free (List.range par.words) r.value < _
  have key : ∀ (ks : List Nat) (v : Nat), (∀ k ∈ ks, k < par.words) → v < 2 ^ (32 * par.words) →
      fillWords r free ks v < 2 ^ (32 * par.words) := by
    intro ks
    induction ks with
    | nil => intro v _ hv; exact hv
    | cons k ks ih =>
      intro v hks hv
      refine ih _ (fun j hj => hks j (List.mem_cons_of_mem _ hj)) ?_
      dsimp only
      split
      · exact hv
      · exact withWord_lt _ hv (hks k List.mem_cons_self)
  exact key _ _ (fun k hk => List.mem_range.mp hk) hr

theorem filled_allWritten {par : Params} (h : par.words ≤ 128) (free : Nat → Word) (r : BigReg) :
    (r.filled par free).allWritten par = true := full_allWritten h _

theorem filled_neededWritten {par : Params} (h : par.words ≤ 128) (free : Nat → Word) (r : PointReg) :
    (r.filled par free).neededWritten par = true := by
  simp [PointReg.filled, PointReg.neededWritten, filled_allWritten h]

@[simp] theorem filled_cfg (par : Params) (n : Nat) (o : Snapshot) : (o.filled par n).cfg = o.cfg := rfl
@[simp] theorem filled_signmax (par : Params) (n : Nat) (o : Snapshot) : (o.filled par n).signmax = o.signmax := rfl

theorem filled_big (par : Params) (n : Nat) (o : Snapshot) (i : BReg) :
    (o.filled par n).big[i] = o.big[i].filled par fun k => Config.freeWord (n + 128 * i.val + k) := by
  simp [Snapshot.filled]

theorem filled_pt (par : Params) (n : Nat) (o : Snapshot) (j : PReg) :
    (o.filled par n).pt[j] = o.pt[j].filled par fun k => Config.freeWord (n + 2048 + 257 * j.val + k) := by
  simp [Snapshot.filled]

/-- A filled snapshot has every word that any command needs (R22). -/
theorem operandsWritten_filled {par : Params} (h : par.words ≤ 128) (n : Nat) (o : Snapshot) (i : Instr) :
    operandsWritten par (o.filled par n) i = true := by
  rw [operandsWritten, Bool.and_eq_true, List.all_eq_true, List.all_eq_true]
  refine ⟨fun r _ => ?_, fun r _ => ?_⟩
  · rw [filled_big]; exact filled_allWritten h _ _
  · rw [filled_pt]; exact filled_neededWritten h _ _

end Sys2Proof.Laws
end

