-- ==== Sys2Proof/Laws/Ops.lean ====
section
/-! SUPPORT. One lemma for each shared operation of Machine/Ops.lean: running on the operands, and the draws. -/

namespace Sys2Proof.Laws

open Sys2Proof.Machine

/-- A command always answers a next state: its completion on its operands (R29). -/
theorem withOperands_next_iff {i : Instr} {s t : State} {k : State → Snapshot → State} :
    withOperands i s k = .next t ↔ t = k (s.prepared i) (s.values i) := by
  simp [withOperands, eq_comm]

theorem prepared_of_written {s : State} {i : Instr} (h : operandsWritten s.par s.operands i = true) :
    s.prepared i = s := by simp [State.prepared, h]

theorem prepared_of_unwritten {s : State} {i : Instr} (h : operandsWritten s.par s.operands i = false) :
    s.prepared i = s.noteUnwritten i := by simp [State.prepared, h]

theorem values_of_written {s : State} {i : Instr} (h : operandsWritten s.par s.operands i = true) :
    s.values i = s.operands := by simp [State.values, h]

theorem values_of_unwritten {s : State} {i : Instr} (h : operandsWritten s.par s.operands i = false) :
    s.values i = s.operands.filled s.par s.draws.free := by simp [State.values, h]

/-- With every needed word written the command runs on the snapshot as it is (R22). -/
theorem withOperands_of_written {i : Instr} {s : State} {k : State → Snapshot → State}
    (h : operandsWritten s.par s.operands i = true) : withOperands i s k = .next (k s s.operands) := by
  simp [withOperands, prepared_of_written h, values_of_written h]

/-- With a needed word unwritten it runs on free values, and the outcome is recorded (R22, R245; log 7). -/
theorem withOperands_of_unwritten {i : Instr} {s : State} {k : State → Snapshot → State}
    (h : operandsWritten s.par s.operands i = false) :
    withOperands i s k = .next (k (s.noteUnwritten i) (s.operands.filled s.par s.draws.free)) := by
  simp [withOperands, prepared_of_unwritten h, values_of_unwritten h]

/-- Recording an unwritten operand changes the counter and the record only. -/
theorem prepared_eq (s : State) (i : Instr) :
    s.prepared i = { s with draws := (s.prepared i).draws, unwrittenOperand := (s.prepared i).unwrittenOperand } ∧
      (s.prepared i).draws.rng = s.draws.rng ∧ (s.prepared i).draws.prime = s.draws.prime := by
  unfold State.prepared
  split <;> exact ⟨rfl, rfl, rfl⟩

/-! The draws (R254, R255). -/

theorem intoRange_of_mem {lo hi v : Nat} (h1 : lo ≤ v) (h2 : v < hi) : intoRange lo hi v = v := by
  unfold intoRange; rw [Nat.mod_eq_of_lt (by omega)]; omega

theorem intoRange_mem {lo hi : Nat} (v : Nat) (h : lo < hi) : lo ≤ intoRange lo hi v ∧ intoRange lo hi v < hi := by
  have := Nat.mod_lt (v - lo) (show 0 < hi - lo by omega)
  unfold intoRange
  omega

/-- The random port answers in [lo, hi) (R254). -/
theorem drawRng_mem {lo hi : Nat} (d : Draws) (h : lo < hi) : lo ≤ (drawRng lo hi d).1 ∧ (drawRng lo hi d).1 < hi := by
  unfold drawRng
  split <;> exact intoRange_mem _ h

/-- A listed answer in the range is the draw (R254). -/
theorem drawRng_listed {lo hi v : Nat} {rest : List Nat} {p : List (Option Nat)} {n : Nat} (h1 : lo ≤ v) (h2 : v < hi) :
    drawRng lo hi ⟨v :: rest, p, n⟩ = (v, ⟨rest, p, n⟩) := by
  simp [drawRng, intoRange_of_mem h1 h2]

theorem drawRng_prime (lo hi : Nat) (d : Draws) : (drawRng lo hi d).2.prime = d.prime := by
  unfold drawRng; split <;> rfl

theorem drawPrime_rng (par : Params) (d : Draws) : (drawPrime par d).2.rng = d.rng := by
  unfold drawPrime; split <;> rfl

/-- The prime port answers Fail or a natural below 2^OPW (R255). -/
theorem drawPrime_lt {par : Params} {d : Draws} {v : Nat} (h : (drawPrime par d).1 = some v) : v < 2 ^ par.opw := by
  have key : ∀ {o : Option Nat}, primeAnswer par o = some v → v < 2 ^ par.opw := by
    intro o ho
    cases o with
    | none => cases ho
    | some w => cases ho; exact Nat.mod_lt _ (by positivity)
  unfold drawPrime at h
  split at h <;> exact key h

end Sys2Proof.Laws
end

