-- ==== Sys2Proof/Laws/Bus.lean ====
section
/-! SUPPORT. Host accesses: when one is turned away, and what a read or a write leaves unchanged. -/

namespace Sys2Proof.Laws

open Sys2Proof.Machine

/-- An access reaches a word exactly when reset is released, the address is in the window and the access is legal. -/
theorem turnedAway_eq_none_iff (s : State) (addr size : Nat) :
    s.turnedAway addr size = none ↔
      s.resetLine = false ∧ s.InWindow addr ∧ LegalAccess (addr - s.par.wbase) size := by
  unfold State.turnedAway
  split_ifs with h1 h2 h3
  · exact ⟨nofun, fun h => absurd h.1 (by simp [h1])⟩
  · exact ⟨fun _ => ⟨Bool.eq_false_iff.mpr h1, h2, h3⟩, fun _ => rfl⟩
  · exact ⟨nofun, fun h => absurd h.2.2 h3⟩
  · exact ⟨nofun, fun h => absurd h.2.1 h2⟩

/-- A read changes nothing of the block (R69, R72). -/
theorem hostRead_sameBlock (s : State) (addr size : Nat) : SameBlock s (s.hostRead addr size) := by
  unfold SameBlock State.hostRead
  repeat' split
  all_goals rfl

/-- An unspecified read of an INF word is 0 or 1 (R63). -/
@[simp] theorem freeRead_infWord (j : PReg) (n : Nat) : (Slot.infWord j).freeRead n = Config.freeWord n &&& 1 := rfl

/-- An unspecified read of any other word may be any word (R22, R69). -/
theorem freeRead_of_ne_infWord {slot : Slot} (h : ∀ j, slot ≠ .infWord j) (n : Nat) :
    slot.freeRead n = Config.freeWord n := by
  cases slot <;> first | exact absurd rfl (h _) | exact BitVec.and_allOnes

theorem hostRead_turnedAway {s : State} {addr size : Nat} {r : BusResp} (h : s.turnedAway addr size = some r) :
    s.hostRead addr size = { s with resp := r } := by
  simp [State.hostRead, h]

/-- A read whose word is specified answers it and changes nothing else (R69). -/
theorem hostRead_some {s : State} {addr size : Nat} {w : Word} (h : s.turnedAway addr size = none)
    (hw : s.readSlot (slotAt s.par (addr - s.par.wbase)) = some w) :
    s.hostRead addr size = { s with resp := .data w } := by
  simp [State.hostRead, h, hw]

/-- A read whose word is unspecified answers a free value and moves the counter (R22, R69; log 6). -/
theorem hostRead_none {s : State} {addr size : Nat} (h : s.turnedAway addr size = none)
    (hw : s.readSlot (slotAt s.par (addr - s.par.wbase)) = none) :
    s.hostRead addr size = { s with
      resp := .data ((slotAt s.par (addr - s.par.wbase)).freeRead s.draws.free)
      draws := { s.draws with free := s.draws.free + 1 } } := by
  simp [State.hostRead, h, hw]

theorem hostRead_inputs (s : State) (addr size : Nat) : (s.hostRead addr size).inputs = s.inputs := by
  unfold State.hostRead
  repeat' split
  all_goals rfl

/-- A write that is turned away changes nothing of the block (R71). -/
theorem hostWrite_turnedAway {s : State} {addr size : Nat} {r : BusResp} (h : s.turnedAway addr size = some r) (v : Word) :
    s.hostWrite addr size v = { s with resp := r } := by
  simp [State.hostWrite, h]

theorem hostWrite_taken {s : State} {addr size : Nat} (h : s.turnedAway addr size = none) (v : Word) :
    s.hostWrite addr size v =
      { s.writeSlot (slotAt s.par (addr - s.par.wbase)) v with resp := .ack } := by
  simp [State.hostWrite, h]

/-- A write never changes the parameters, the reset line, the inputs to come or the draws. -/
theorem writeSlot_env (s : State) (slot : Slot) (v : Word) :
    (s.writeSlot slot v).par = s.par ∧ (s.writeSlot slot v).resetLine = s.resetLine ∧
      (s.writeSlot slot v).inputs = s.inputs ∧ (s.writeSlot slot v).draws = s.draws := by
  unfold State.writeSlot
  split
  · exact ⟨rfl, rfl, rfl, rfl⟩
  · cases slot <;> try exact ⟨rfl, rfl, rfl, rfl⟩
    simp only [State.storeSlot, State.writeCmd]
    split <;> exact ⟨rfl, rfl, rfl, rfl⟩

/-- A write does not look at the inputs to come, and leaves them. -/
theorem writeSlot_withInputs (s : State) (rest : List Input) (slot : Slot) (v : Word) :
    State.writeSlot { s with inputs := rest } slot v = { s.writeSlot slot v with inputs := rest } := by
  have hd : State.drops { s with inputs := rest } slot = s.drops slot := rfl
  have hb : State.busy { s with inputs := rest } = s.busy := rfl
  unfold State.writeSlot
  rw [hd]
  split
  · rfl
  · cases slot <;> try rfl
    simp only [State.storeSlot, State.writeCmd, hb]
    split <;> rfl

/-- A write never changes TRIES, and RESULT and ERRCODE change only by acceptance. -/
theorem writeSlot_tries (s : State) (slot : Slot) (v : Word) : (s.writeSlot slot v).tries = s.tries := by
  unfold State.writeSlot
  split
  · rfl
  · cases slot <;> try rfl
    simp only [State.storeSlot, State.writeCmd]
    split <;> rfl

/-- While BUSY a write changes no register, no configuration and not the phase (R67, R68). -/
theorem writeSlot_busy {s : State} (hb : s.busy = true) (slot : Slot) (v : Word) :
    (s.writeSlot slot v).big = s.big ∧ (s.writeSlot slot v).pt = s.pt ∧ (s.writeSlot slot v).cfg = s.cfg ∧
      (s.writeSlot slot v).signmax = s.signmax ∧ (s.writeSlot slot v).phase = s.phase ∧
      (s.writeSlot slot v).cmd = s.cmd ∧ (s.writeSlot slot v).err = s.err ∧ (s.writeSlot slot v).result = s.result := by
  unfold State.writeSlot
  split
  · exact ⟨rfl, rfl, rfl, rfl, rfl, rfl, rfl, rfl⟩
  · next hd =>
    cases slot <;> first
      | exact ⟨rfl, rfl, rfl, rfl, rfl, rfl, rfl, rfl⟩
      | (simp [State.storeSlot, State.writeCmd, hb]; done)
      | (simp [State.drops, Slot.isData, hb] at hd)

end Sys2Proof.Laws
end

