-- ==== Sys2Proof/Laws/Curve.lean ====
section
/-! SUPPORT. The group operations: what each branch answers, and that coordinates stay below p (R159). -/

namespace Sys2Proof.Laws

open Sys2Proof.Machine

@[simp] theorem inRange_inf (p : Nat) : Point.inf.inRange p = true := rfl

@[simp] theorem inRange_aff (p x y : Nat) : (Point.aff x y).inRange p = true ↔ x < p ∧ y < p := by
  simp [Point.inRange]

theorem chordPoint_inRange {p : Nat} (hp : 0 < p) (lam x1 y1 x2 : Nat) :
    (chordPoint p lam x1 y1 x2).inRange p = true := by
  simp only [chordPoint, inRange_aff]
  exact ⟨emod_lt _ hp, emod_lt _ hp⟩

theorem ecDbl_inRange {c : CurveCfg} (hp : 0 < c.p) {q r : Point} (h : ecDbl c q = .ok r) : r.inRange c.p = true := by
  unfold ecDbl at h
  split at h
  · cases h; rfl
  · split at h
    · cases h; rfl
    · split at h
      · cases h
      · cases h; exact chordPoint_inRange hp _ _ _ _

theorem ecChord_inRange {c : CurveCfg} (hp : 0 < c.p) {x1 y1 x2 y2 : Nat} {r : Point}
    (h : ecChord c x1 y1 x2 y2 = .ok r) : r.inRange c.p = true := by
  unfold ecChord at h
  split at h
  · split at h
    · cases h; rfl
    · cases h
  · split at h
    · cases h
    · cases h; exact chordPoint_inRange hp _ _ _ _

theorem ecAdd_inRange {c : CurveCfg} (hp : 0 < c.p) {p q r : Point} (h1 : p.inRange c.p = true)
    (h2 : q.inRange c.p = true) (h : ecAdd c p q = .ok r) : r.inRange c.p = true := by
  unfold ecAdd at h
  split at h
  · cases h; exact h2
  · cases h; exact h1
  · split at h
    · exact ecDbl_inRange hp h
    · exact ecChord_inRange hp h

theorem ecMulStep_inRange {c : CurveCfg} (hp : 0 < c.p) {p acc r : Point} {b : Bool} (h1 : p.inRange c.p = true)
    (h : ecMulStep c p b acc = .ok r) : r.inRange c.p = true := by
  unfold ecMulStep at h
  split at h
  · cases h
  · next dbl hd =>
    split at h
    · exact ecAdd_inRange hp (ecDbl_inRange hp hd) h1 h
    · cases h; exact ecDbl_inRange hp hd

theorem ecMulLoop_inRange {c : CurveCfg} (hp : 0 < c.p) {k : Nat} {p : Point} (h1 : p.inRange c.p = true) :
    ∀ (i : Nat) {acc r : Point}, acc.inRange c.p = true → ecMulLoop c k p i acc = .ok r → r.inRange c.p = true := by
  intro i
  induction i with
  | zero => intro acc r h2 h; cases h; exact h2
  | succ i ih =>
    intro acc r h2 h
    unfold ecMulLoop at h
    split at h
    · cases h
    · next nx hn => exact ih (ecMulStep_inRange hp h1 hn) h

/-- Every affine point that scalar multiplication returns has both coordinates below p (R159). -/
theorem ecMul_inRange {c : CurveCfg} (hp : 0 < c.p) {k : Nat} {p r : Point} (h1 : p.inRange c.p = true)
    (h : ecMul c k p = .ok r) : r.inRange c.p = true := by
  unfold ecMul at h
  split at h
  · cases h; rfl
  · exact ecMulLoop_inRange hp h1 _ h1 h

/-- The generator of a good configuration is in range (R150). -/
theorem g_inRange {c : CurveCfg} (h : c.Good) : c.g.inRange c.p = true := by
  simp only [CurveCfg.g, inRange_aff]
  exact ⟨h.2.2.2.2.2.2.1, h.2.2.2.2.2.2.2⟩

@[simp] theorem ecMul_zero (c : CurveCfg) (p : Point) : ecMul c 0 p = .ok .inf := rfl

/-- The only failure of the group operations is NOT_INVERTIBLE (R154 to R156). -/
theorem ecDbl_error {c : CurveCfg} {q : Point} {e : ErrCode} (h : ecDbl c q = .error e) : e = .notInvertible := by
  unfold ecDbl at h
  repeat' split at h
  all_goals first | exact (Except.error.inj h).symm | cases h

theorem ecAdd_error {c : CurveCfg} {p q : Point} {e : ErrCode} (h : ecAdd c p q = .error e) : e = .notInvertible := by
  unfold ecAdd ecChord at h
  repeat' split at h
  all_goals first | exact ecDbl_error h | exact (Except.error.inj h).symm | cases h

theorem ecMulLoop_error {c : CurveCfg} {k : Nat} {p : Point} {e : ErrCode} :
    ∀ (i : Nat) {acc : Point}, ecMulLoop c k p i acc = .error e → e = .notInvertible := by
  intro i
  induction i with
  | zero => intro acc h; cases h
  | succ i ih =>
    intro acc h
    unfold ecMulLoop ecMulStep at h
    split at h
    · next e' he =>
      cases h
      split at he
      · next hd => cases he; exact ecDbl_error hd
      · split at he
        · exact ecAdd_error he
        · cases he
    · exact ih h

theorem ecMul_error {c : CurveCfg} {k : Nat} {p : Point} {e : ErrCode} (h : ecMul c k p = .error e) :
    e = .notInvertible := by
  unfold ecMul at h
  split at h
  · cases h
  · exact ecMulLoop_error _ h

/-! The signing loop (R183). -/

/-- What an accepted attempt gives (R183, R184). -/
theorem signAttempt_some {c : CurveCfg} {h d k r sg : Nat} (ha : signAttempt c h d k = some (r, sg)) :
    ∃ x y kinv, ecMul c k c.g = .ok (.aff x y) ∧ r = emod x c.n ∧ r ≠ 0 ∧ inv k c.n = some kinv ∧
      sg = emod (kinv * (h + r * d)) c.n ∧ sg ≠ 0 := by
  unfold signAttempt at ha
  split at ha
  · cases ha
  · cases ha
  · next x y hm =>
    split at ha
    · cases ha
    · next hr =>
      split at ha
      · cases ha
      · next kinv hk =>
        split at ha
        · cases ha
        · next hs =>
          obtain ⟨rfl, rfl⟩ := Prod.mk.injEq .. ▸ Option.some.inj ha
          exact ⟨x, y, kinv, hm, rfl, hr, hk, rfl, hs⟩

theorem signAttempt_lt {c : CurveCfg} (hn : 0 < c.n) {h d k r sg : Nat} (ha : signAttempt c h d k = some (r, sg)) :
    1 ≤ r ∧ r < c.n ∧ 1 ≤ sg ∧ sg < c.n := by
  obtain ⟨x, y, kinv, -, hr, hr0, -, hs, hs0⟩ := signAttempt_some ha
  have h1 := emod_lt (x : Int) hn
  have h2 := emod_lt ((kinv : Int) * (h + r * d)) hn
  omega

/-- A signature that the loop ends with came from an accepted attempt (R183). -/
theorem signLoop_some {c : CurveCfg} {h d : Nat} : ∀ (left tries : Nat) (dr : Draws) {sig : Nat × Nat},
    (signLoop c h d left tries dr).sig = some sig → ∃ k, signAttempt c h d k = some sig := by
  intro left
  induction left with
  | zero => intro tries dr sig hs; cases hs
  | succ left ih =>
    intro tries dr sig hs
    unfold signLoop at hs
    split at hs
    · next sg hk => cases hs; exact ⟨_, hk⟩
    · exact ih _ _ hs

/-- The loop starts at most `left` attempts (R183). -/
theorem signLoop_tries {c : CurveCfg} {h d : Nat} : ∀ (left tries : Nat) (dr : Draws),
    tries ≤ (signLoop c h d left tries dr).tries ∧ (signLoop c h d left tries dr).tries ≤ tries + left := by
  intro left
  induction left with
  | zero => intro tries dr; simp [signLoop]
  | succ left ih =>
    intro tries dr
    unfold signLoop
    split
    · simp only; omega
    · have := ih (tries + 1) (drawRng 1 c.n dr).2
      omega

end Sys2Proof.Laws
end

