-- ==== Sys2Proof/Laws/Decode.lean ====
section
/-! SUPPORT. The fields of a word: packing and unpacking undo each other, and the opcode table is consistent. -/

namespace Sys2Proof.Laws

/-- Each field of a concatenation of the nine fields, at its place in R90. -/
theorem extract_fields (op : BitVec 6) (fa fb fc fd : BitVec 4) (pa pb pc : BitVec 3) (s : BitVec 1) :
    let w := op ++ fa ++ fb ++ fc ++ fd ++ pa ++ pb ++ pc ++ s
    w.extractLsb' 26 6 = op ∧
      w.extractLsb' 22 4 = fa ∧
      w.extractLsb' 18 4 = fb ∧
      w.extractLsb' 14 4 = fc ∧
      w.extractLsb' 10 4 = fd ∧
      w.extractLsb' 7 3 = pa ∧
      w.extractLsb' 4 3 = pb ∧
      w.extractLsb' 1 3 = pc ∧
      w.extractLsb' 0 1 = s := by
  refine ⟨?_, ?_, ?_, ?_, ?_, ?_, ?_, ?_, ?_⟩ <;>
    · repeat rw [BitVec.extractLsb'_append_eq_of_le (by decide)]
      first
        | exact BitVec.extractLsb'_append_eq_right
        | exact BitVec.extractLsb'_eq_self

@[simp] theorem unpack_pack (f : Fields) : unpack (pack f) = f := by
  obtain ⟨h1, h2, h3, h4, h5, h6, h7, h8, h9⟩ := extract_fields f.op f.fa f.fb f.fc f.fd f.pa f.pb f.pc f.s
  exact Fields.mk.injEq .. |>.mpr ⟨h1, h2, h3, h4, h5, h6, h7, h8, h9⟩

/-- Two neighbouring fields of a word, joined. -/
theorem join_fields (w : Word) (s₁ l₁ l₂ : Nat) :
    w.extractLsb' (s₁ + l₁) l₂ ++ w.extractLsb' s₁ l₁ = w.extractLsb' s₁ (l₂ + l₁) :=
  BitVec.extractLsb'_append_extractLsb'_eq_extractLsb' rfl

theorem concat_extracts (w : Word) :
    w.extractLsb' 26 6 ++ w.extractLsb' 22 4 ++ w.extractLsb' 18 4 ++ w.extractLsb' 14 4 ++ w.extractLsb' 10 4 ++
      w.extractLsb' 7 3 ++ w.extractLsb' 4 3 ++ w.extractLsb' 1 3 ++ w.extractLsb' 0 1 = w.extractLsb' 0 32 := by
  rw [join_fields w 22 4 6, join_fields w 18 4 10, join_fields w 14 4 14, join_fields w 10 4 18, join_fields w 7 3 22,
    join_fields w 4 3 25, join_fields w 1 3 28, join_fields w 0 1 31]

@[simp] theorem pack_unpack (w : Word) : pack (unpack w) = w :=
  (concat_extracts w).trans BitVec.extractLsb'_eq_self

@[simp] theorem opcodeOf_opValue (o : Opcode) : opcodeOf (opValue o) = some o := by
  cases o <;> rfl

theorem opValue_of_opcodeOf {op : BitVec 6} {o : Opcode} (h : opcodeOf op = some o) : opValue o = op := by
  have := List.find?_some h
  simpa using this

@[simp] theorem fieldsOf_op (i : Instr) : (fieldsOf i).op = opValue (opcode i) := by
  cases i <;> rfl

@[simp] theorem unpack_encode (i : Instr) : unpack (encode i) = fieldsOf i := unpack_pack _

/-- The two tables of the spec assign the same OP values (R92, R94). -/
theorem opcodeOf_isSome_iff (op : BitVec 6) : (opcodeOf op).isSome = (fieldUse op).isSome := by
  revert op; decide

@[simp] theorem build_fieldsOf (i : Instr) : build (opcode i) (fieldsOf i) = i := by
  cases i with
  | rsaVerify strip h sig n => cases strip <;> rfl
  | _ => rfl

end Sys2Proof.Laws
end

