-- ==== Sys2Proof/Laws/Exec.lean ====
section
/-! SUPPORT. The shapes of a completion: from the state that a meaning answers to the terms of the claims. -/

namespace Sys2Proof.Laws

open Sys2Proof.Machine

theorem sameElse_refl (s : State) : SameElse s s := ⟨⟨rfl, rfl, rfl, rfl, rfl, rfl, rfl, rfl, rfl, rfl, rfl⟩, rfl⟩

theorem sameElse_trans {s t u : State} (h : SameElse s t) (k : SameElse t u) : SameElse s u :=
  ⟨⟨k.par.trans h.par, k.cfg.trans h.cfg, k.ie.trans h.ie, k.lock.trans h.lock, k.cmdovr.trans h.cmdovr,
    k.wrdrop.trans h.wrdrop, k.cmd.trans h.cmd, k.signmax.trans h.signmax, k.resetLine.trans h.resetLine,
    k.inputs.trans h.inputs, k.resp.trans h.resp⟩,
    k.unwrittenOperand.trans h.unwrittenOperand⟩

theorem finish_sameElse (s : State) (c : ErrCode) (b : Bool) : SameElse s (s.finish c b) :=
  ⟨⟨rfl, rfl, rfl, rfl, rfl, rfl, rfl, rfl, rfl, rfl, rfl⟩, rfl⟩

theorem writeBig_sameElse (s : State) (d : BReg) (v : Nat) : SameElse s (s.writeBig d v) :=
  ⟨⟨rfl, rfl, rfl, rfl, rfl, rfl, rfl, rfl, rfl, rfl, rfl⟩, rfl⟩

theorem writePoint_sameElse (s : State) (d : PReg) (q : Point) : SameElse s (s.writePoint d q) :=
  ⟨⟨rfl, rfl, rfl, rfl, rfl, rfl, rfl, rfl, rfl, rfl, rfl⟩, rfl⟩

theorem writeTries_sameElse (s : State) (n : Nat) : SameElse s (s.writeTries n) :=
  ⟨⟨rfl, rfl, rfl, rfl, rfl, rfl, rfl, rfl, rfl, rfl, rfl⟩, rfl⟩

theorem draws_sameElse (s : State) (d : Draws) : SameElse s { s with draws := d } :=
  ⟨⟨rfl, rfl, rfl, rfl, rfl, rfl, rfl, rfl, rfl, rfl, rfl⟩, rfl⟩

theorem finish_completedWith (s : State) (c : ErrCode) (b : Bool) : CompletedWith (s.finish c b) c b :=
  ⟨rfl, rfl, rfl, rfl⟩

theorem holdsBig_writeBig {s : State} (h : s.par.words ≤ 128) (d : BReg) (v : Nat) : HoldsBig (s.writeBig d v) d v := by
  have e : (s.writeBig d v).big[d] = BigReg.full s.par v := by rw [getElem_writeBig, if_pos rfl]
  exact ⟨by rw [e]; rfl, (allWritten_iff _ _).mp (by rw [e]; exact full_allWritten h v)⟩

theorem holdsBig_writeBig_ne {s : State} {d r : BReg} (hne : r ≠ d) {v w : Nat} (h : HoldsBig s r w) :
    HoldsBig (s.writeBig d v) r w := by
  have e : (s.writeBig d v).big[r] = s.big[r] := by rw [getElem_writeBig, if_neg hne]
  exact ⟨by rw [e]; exact h.value, fun k hk => by rw [e]; exact h.written k hk⟩

theorem bigSameExcept_writeBig (s : State) (d : BReg) (v : Nat) : BigSameExcept s (s.writeBig d v) [d] := by
  intro r hr
  rw [getElem_writeBig, if_neg (by simpa using hr)]

theorem holdsPoint_writePoint {s : State} (h : s.par.words ≤ 128) (d : PReg) (q : Point) :
    HoldsPoint (s.writePoint d q) d q := by
  have e : (s.writePoint d q).pt[d] = PointReg.full s.par q := by rw [getElem_writePoint, if_pos rfl]
  have f := fun v => (allWritten_iff s.par _).mp (full_allWritten h v)
  constructor <;> rw [e] <;> cases q <;> first | simp [PointReg.full]; done | exact f _

theorem ptSameExcept_writePoint (s : State) (d : PReg) (q : Point) : PtSameExcept s (s.writePoint d q) [d] := by
  intro r hr
  rw [getElem_writePoint, if_neg (by simpa using hr)]

theorem writesBig_of {i : Instr} {s : State} {d : BReg} {v : Nat} (hl : s.par.Legal)
    (h : exec i s = .next ((s.writeBig d v).finish .none false)) : WritesBig i s d v :=
  ⟨_, h, ⟨(holdsBig_writeBig (legal_words_le hl) d v).value, (holdsBig_writeBig (legal_words_le hl) d v).written⟩,
    bigSameExcept_writeBig s d v, rfl, rfl, rfl,
    sameElse_trans (writeBig_sameElse s d v) (finish_sameElse _ _ _), finish_completedWith _ _ _⟩

theorem writesPoint_of {i : Instr} {s : State} {d : PReg} {q : Point} (hl : s.par.Legal)
    (h : exec i s = .next ((s.writePoint d q).finish .none false)) : WritesPoint i s d q :=
  have hp := holdsPoint_writePoint (legal_words_le hl) d q
  ⟨_, h, ⟨hp.inf, hp.coords, hp.infWritten, hp.xWritten, hp.yWritten⟩, ptSameExcept_writePoint s d q, rfl, rfl, rfl,
    sameElse_trans (writePoint_sameElse s d q) (finish_sameElse _ _ _), finish_completedWith _ _ _⟩

theorem answersBool_of {i : Instr} {s : State} {b : Bool} (h : exec i s = .next (s.finish .none b)) : AnswersBool i s b :=
  ⟨_, h, rfl, rfl, rfl, rfl, finish_sameElse _ _ _, finish_completedWith _ _ _⟩

theorem failsWith_of {i : Instr} {s : State} {c : ErrCode} (h : exec i s = .next (s.finish c false)) : FailsWith i s c :=
  ⟨_, h, rfl, rfl, rfl, rfl, finish_sameElse _ _ _, finish_completedWith _ _ _⟩

end Sys2Proof.Laws
end

