-- ==== Sys2Proof/Laws/Step.lean ====
section
/-! SUPPORT. Everything that a step can do, said once (R284): the sequencer's turn, a host access, or the reset line. -/

namespace Sys2Proof.Laws

open Sys2Proof.Machine

theorem step_of_no_inputs {s : State} (h : s.inputs = []) : step s = sequencerTurn s := by
  simp [step, nextStep, h]

theorem step_of_input {s : State} {e : Input} {rest : List Input} (h : s.inputs = e :: rest) :
    step s = takeInput { s with inputs := rest } e := by
  simp [step, nextStep, h]

/-- A BUSY word that is illegal or reserved completes with its error (R96, R97). -/
theorem sequencerTurn_illegal {s : State} {w : Word} {snap : Snapshot} (hp : s.phase = .busy w snap)
    (hd : decode w = .illegal) : sequencerTurn s = .next (s.completeError .illegalOpcode) := by
  simp [sequencerTurn, completeWord, hp, hd]

theorem sequencerTurn_reserved {s : State} {w : Word} {snap : Snapshot} {o : Opcode} (hp : s.phase = .busy w snap)
    (hd : decode w = .reserved o) : sequencerTurn s = .next (s.completeError .reservedField) := by
  simp [sequencerTurn, completeWord, hp, hd]

theorem sequencerTurn_cmd {s : State} {w : Word} {snap : Snapshot} {i : Instr} (hp : s.phase = .busy w snap)
    (hd : decode w = .cmd i) : sequencerTurn s = exec i s := by
  simp [sequencerTurn, completeWord, hp, hd]

/-- The sequencer's turn: nothing in IDLE, else the completion of the latched word. -/
theorem sequencerTurn_cases {s t : State} (h : sequencerTurn s = .next t) :
    (s.phase = .idle ∧ t = s) ∨ ∃ w snap, s.phase = .busy w snap ∧
      (decode w = .illegal ∧ t = s.completeError .illegalOpcode ∨
        (∃ o, decode w = .reserved o) ∧ t = s.completeError .reservedField ∨
        ∃ i, decode w = .cmd i ∧ exec i s = .next t) := by
  unfold sequencerTurn at h
  split at h
  · next hp => cases h; exact .inl ⟨hp, rfl⟩
  · next w snap hp =>
    refine .inr ⟨w, snap, hp, ?_⟩
    unfold completeWord at h
    split at h
    · next hd => cases h; exact .inl ⟨hd, rfl⟩
    · next o hd => cases h; exact .inr (.inl ⟨⟨o, hd⟩, rfl⟩)
    · next i hd => exact .inr (.inr ⟨i, hd, h⟩)

/-- Everything a step that answers a next state can have done. -/
theorem step_cases {s t : State} (h : step s = .next t) :
    (s.inputs = [] ∧ sequencerTurn s = .next t) ∨ ∃ e rest, s.inputs = e :: rest ∧
      ((∃ addr size, e = .read addr size ∧ t = { s with inputs := rest }.hostRead addr size) ∨
        (∃ addr size v, e = .write addr size v ∧ t = { s with inputs := rest }.hostWrite addr size v) ∨
        (e = .complete ∧ sequencerTurn { s with inputs := rest } = .next t) ∨
        (e = .resetAssert ∧ t = { s with inputs := rest }.assertReset) ∨
        (e = .resetRelease ∧ t = { s with inputs := rest }.releaseReset)) := by
  cases hi : s.inputs with
  | nil => exact .inl ⟨rfl, by rwa [step_of_no_inputs hi] at h⟩
  | cons e rest =>
    refine .inr ⟨e, rest, rfl, ?_⟩
    rw [step_of_input hi] at h
    cases e with
    | read addr size => cases h; exact .inl ⟨addr, size, rfl, rfl⟩
    | write addr size v => cases h; exact .inr (.inl ⟨addr, size, v, rfl, rfl⟩)
    | complete => exact .inr (.inr (.inl ⟨rfl, h⟩))
    | resetAssert => cases h; exact .inr (.inr (.inr (.inl ⟨rfl, rfl⟩)))
    | resetRelease => cases h; exact .inr (.inr (.inr (.inr ⟨rfl, rfl⟩)))

end Sys2Proof.Laws
end

