-- ==== Sys2Proof/Laws/ModelRun.lean ====
section
/-! SUPPORT. What the spec's step does: where it faults, and that it is the hardware's step elsewhere (R245, R273, R284). -/

namespace Sys2Proof.Laws

open Sys2Proof.Machine

theorem completing_eq_some {s : State} {w : Word} :
    s.completing = some w ↔ (∃ snap, s.phase = .busy w snap) ∧ (s.inputs = [] ∨ ∃ rest, s.inputs = .complete :: rest) := by
  unfold State.completing
  split
  · simp_all
  · simp_all
  · next h1 h2 => simpa using fun snap hp => ⟨h1 w snap hp, fun rest => h2 w snap rest hp⟩

theorem unwrittenNeed_eq_some {s : State} {w : Word} {i : Instr} :
    s.unwrittenNeed w = some i ↔ decode w = .cmd i ∧ operandsWritten s.par s.operands i = false := by
  unfold State.unwrittenNeed
  split
  · simp_all
  · simp_all
  · split
    · simp_all
      rintro rfl; assumption
    · simp_all
      rintro rfl; assumption

/-- UNWRITTEN_OPERAND is taken exactly at a completion of a command that needs an unwritten word (R245). -/
theorem modelFault_eq_some {s : State} {i : Instr} :
    s.modelFault = some i ↔ (∃ w snap, s.phase = .busy w snap ∧ decode w = .cmd i) ∧
      (s.inputs = [] ∨ ∃ rest, s.inputs = .complete :: rest) ∧ operandsWritten s.par s.operands i = false := by
  simp only [State.modelFault, Option.bind_eq_some_iff, completing_eq_some, unwrittenNeed_eq_some]
  constructor
  · rintro ⟨w, ⟨⟨snap, hp⟩, hi⟩, hd, ho⟩; exact ⟨⟨w, snap, hp, hd⟩, hi, ho⟩
  · rintro ⟨⟨w, snap, hp, hd⟩, hi, ho⟩; exact ⟨w, ⟨⟨snap, hp⟩, hi⟩, hd, ho⟩

theorem modelStep_of_fault {s : State} {i : Instr} (h : s.modelFault = some i) :
    modelStep s = .fault (.unwrittenOperand i) := by
  simp [modelStep, h]

theorem modelStep_of_no_fault {s : State} (h : s.modelFault = none) : modelStep s = asModelOutcome (step s) := by
  simp [modelStep, h]

theorem asModelOutcome_eq_next {o : Host.Outcome State Fault Refusal} {t : State} :
    asModelOutcome o = .next t ↔ o = .next t := by
  cases o with
  | next s => simp [asModelOutcome]
  | fault r => nomatch r
  | refused r => simp [asModelOutcome]

/-- A next state of the spec's step is the hardware's, and no fault was taken. -/
theorem modelStep_eq_next {s t : State} : modelStep s = .next t ↔ s.modelFault = none ∧ step s = .next t := by
  unfold modelStep
  split <;> simp_all [asModelOutcome_eq_next]

/-! Runs, of the hardware's step (`core`) and of the spec's (`modelCore`). -/

theorem run_succ_of_next {M : Host.Core} {s t : M.State} (k : Nat) (h : M.step s = .next t) :
    M.run (k + 1) s = M.run k t := by simp [Host.Core.run, h]

theorem run_succ_of_fault {M : Host.Core} {s : M.State} {r : M.Fault} (k : Nat) (h : M.step s = .fault r) :
    M.run (k + 1) s = .fault r := by simp [Host.Core.run, h]

theorem modelRun_succ_of_next {s t : State} (k : Nat) (h : modelStep s = .next t) : modelRun (k + 1) s = modelRun k t :=
  run_succ_of_next (M := modelCore) k h

/-- A run ends at UNWRITTEN_OPERAND, whatever would come after (R284). -/
theorem modelRun_succ_of_fault {s : State} {r : ModelFault} (k : Nat) (h : modelStep s = .fault r) :
    modelRun (k + 1) s = .fault r :=
  run_succ_of_fault (M := modelCore) k h

end Sys2Proof.Laws
end

