-- ==== Sys2Proof/Laws/PerInstr.lean ====
section
/-! SUPPORT. A family of statements about every command as syntax: its word has the fixed bits of its row of R94. -/

namespace Sys2Proof.Laws

theorem pack_and (f g : Fields) :
    pack f &&& pack g =
      pack ⟨f.op &&& g.op, f.fa &&& g.fa, f.fb &&& g.fb, f.fc &&& g.fc, f.fd &&& g.fd, f.pa &&& g.pa, f.pb &&& g.pb,
        f.pc &&& g.pc, f.s &&& g.s⟩ := by
  unfold pack
  repeat rw [← BitVec.and_append]

/-- The fields of a word masked: each field masked. -/
theorem pack_and_word (f : Fields) (w : Word) :
    pack f &&& w =
      pack ⟨f.op &&& (unpack w).op, f.fa &&& (unpack w).fa, f.fb &&& (unpack w).fb, f.fc &&& (unpack w).fc,
        f.fd &&& (unpack w).fd, f.pa &&& (unpack w).pa, f.pb &&& (unpack w).pb, f.pc &&& (unpack w).pc,
        f.s &&& (unpack w).s⟩ := by
  conv_lhs => rw [← pack_unpack w]
  exact pack_and f (unpack w)

/-- The masks of R94, field by field. -/
def maskFields : Opcode → Fields
  | .nop => ⟨63, 15, 15, 15, 15, 7, 7, 7, 1⟩
  | .modadd => ⟨63, 0, 0, 0, 0, 7, 7, 7, 1⟩
  | .modsub => ⟨63, 0, 0, 0, 0, 7, 7, 7, 1⟩
  | .modmul => ⟨63, 0, 0, 0, 0, 7, 7, 7, 1⟩
  | .montmul => ⟨63, 0, 0, 0, 0, 7, 7, 7, 1⟩
  | .modred => ⟨63, 0, 0, 15, 0, 7, 7, 7, 1⟩
  | .modinv => ⟨63, 0, 0, 15, 0, 7, 7, 7, 1⟩
  | .modexp => ⟨63, 0, 0, 0, 0, 7, 7, 7, 1⟩
  | .ecadd => ⟨63, 15, 15, 15, 15, 0, 0, 0, 1⟩
  | .ecdbl => ⟨63, 15, 15, 15, 15, 0, 0, 7, 1⟩
  | .ecmul => ⟨63, 15, 0, 15, 15, 0, 0, 7, 1⟩
  | .ecchk => ⟨63, 15, 15, 15, 15, 7, 0, 7, 1⟩
  | .ecdsaKeygen => ⟨63, 0, 15, 15, 15, 0, 7, 7, 1⟩
  | .ecdsaSign => ⟨63, 0, 0, 0, 0, 7, 7, 7, 1⟩
  | .ecdsaVerify => ⟨63, 15, 0, 0, 0, 7, 0, 7, 1⟩
  | .rsaKeygen => ⟨63, 0, 0, 15, 15, 7, 7, 7, 1⟩
  | .rsaSign => ⟨63, 0, 0, 0, 0, 7, 7, 7, 1⟩
  | .rsaVerify => ⟨63, 15, 0, 0, 0, 7, 7, 7, 0⟩

theorem mask_fields (o : Opcode) : unpack (row o).mask = maskFields o := by
  cases o <;> decide

namespace RowBits

/-- The word of a command agrees with its row on the row's mask (R94). -/
def Statement (i : Instr) : Prop := encode i &&& (row (opcode i)).mask = (row (opcode i)).pattern

theorem nop : Statement (.nop) := by
  rw [Statement, encode, pack_and_word, mask_fields]
  simp only [fieldsOf, fieldsWith, opcode, maskFields]
  decide

theorem modadd (d : BReg) (a : BReg) (b : BReg) (m : BReg) : Statement (.modadd d a b m) := by
  rw [Statement, encode, pack_and_word, mask_fields]
  simp only [fieldsOf, fieldsWith, opcode, maskFields, BitVec.ofNat_eq_ofNat, BitVec.and_zero]
  decide

theorem modsub (d : BReg) (a : BReg) (b : BReg) (m : BReg) : Statement (.modsub d a b m) := by
  rw [Statement, encode, pack_and_word, mask_fields]
  simp only [fieldsOf, fieldsWith, opcode, maskFields, BitVec.ofNat_eq_ofNat, BitVec.and_zero]
  decide

theorem modmul (d : BReg) (a : BReg) (b : BReg) (m : BReg) : Statement (.modmul d a b m) := by
  rw [Statement, encode, pack_and_word, mask_fields]
  simp only [fieldsOf, fieldsWith, opcode, maskFields, BitVec.ofNat_eq_ofNat, BitVec.and_zero]
  decide

theorem montmul (d : BReg) (a : BReg) (b : BReg) (m : BReg) : Statement (.montmul d a b m) := by
  rw [Statement, encode, pack_and_word, mask_fields]
  simp only [fieldsOf, fieldsWith, opcode, maskFields, BitVec.ofNat_eq_ofNat, BitVec.and_zero]
  decide

theorem modred (d : BReg) (a : BReg) (m : BReg) : Statement (.modred d a m) := by
  rw [Statement, encode, pack_and_word, mask_fields]
  simp only [fieldsOf, fieldsWith, opcode, maskFields, BitVec.ofNat_eq_ofNat, BitVec.and_zero]
  decide

theorem modinv (d : BReg) (a : BReg) (m : BReg) : Statement (.modinv d a m) := by
  rw [Statement, encode, pack_and_word, mask_fields]
  simp only [fieldsOf, fieldsWith, opcode, maskFields, BitVec.ofNat_eq_ofNat, BitVec.and_zero]
  decide

theorem modexp (d : BReg) (base : BReg) (exp : BReg) (m : BReg) : Statement (.modexp d base exp m) := by
  rw [Statement, encode, pack_and_word, mask_fields]
  simp only [fieldsOf, fieldsWith, opcode, maskFields, BitVec.ofNat_eq_ofNat, BitVec.and_zero]
  decide

theorem ecadd (d : PReg) (p : PReg) (q : PReg) : Statement (.ecadd d p q) := by
  rw [Statement, encode, pack_and_word, mask_fields]
  simp only [fieldsOf, fieldsWith, opcode, maskFields, BitVec.ofNat_eq_ofNat, BitVec.and_zero]
  decide

theorem ecdbl (d : PReg) (p : PReg) : Statement (.ecdbl d p) := by
  rw [Statement, encode, pack_and_word, mask_fields]
  simp only [fieldsOf, fieldsWith, opcode, maskFields, BitVec.ofNat_eq_ofNat, BitVec.and_zero]
  decide

theorem ecmul (d : PReg) (k : BReg) (p : PReg) : Statement (.ecmul d k p) := by
  rw [Statement, encode, pack_and_word, mask_fields]
  simp only [fieldsOf, fieldsWith, opcode, maskFields, BitVec.ofNat_eq_ofNat, BitVec.and_zero]
  decide

theorem ecchk (p : PReg) : Statement (.ecchk p) := by
  rw [Statement, encode, pack_and_word, mask_fields]
  simp only [fieldsOf, fieldsWith, opcode, maskFields, BitVec.ofNat_eq_ofNat, BitVec.and_zero]
  decide

theorem ecdsaKeygen (priv : BReg) (pub : PReg) : Statement (.ecdsaKeygen priv pub) := by
  rw [Statement, encode, pack_and_word, mask_fields]
  simp only [fieldsOf, fieldsWith, opcode, maskFields, BitVec.ofNat_eq_ofNat, BitVec.and_zero]
  decide

theorem ecdsaSign (r : BReg) (sg : BReg) (h : BReg) (priv : BReg) : Statement (.ecdsaSign r sg h priv) := by
  rw [Statement, encode, pack_and_word, mask_fields]
  simp only [fieldsOf, fieldsWith, opcode, maskFields, BitVec.ofNat_eq_ofNat, BitVec.and_zero]
  decide

theorem ecdsaVerify (h : BReg) (r : BReg) (sg : BReg) (pub : PReg) : Statement (.ecdsaVerify h r sg pub) := by
  rw [Statement, encode, pack_and_word, mask_fields]
  simp only [fieldsOf, fieldsWith, opcode, maskFields, BitVec.ofNat_eq_ofNat, BitVec.and_zero]
  decide

theorem rsaKeygen (n : BReg) (d : BReg) : Statement (.rsaKeygen n d) := by
  rw [Statement, encode, pack_and_word, mask_fields]
  simp only [fieldsOf, fieldsWith, opcode, maskFields, BitVec.ofNat_eq_ofNat, BitVec.and_zero]
  decide

theorem rsaSign (sig : BReg) (h : BReg) (d : BReg) (n : BReg) : Statement (.rsaSign sig h d n) := by
  rw [Statement, encode, pack_and_word, mask_fields]
  simp only [fieldsOf, fieldsWith, opcode, maskFields, BitVec.ofNat_eq_ofNat, BitVec.and_zero]
  decide

theorem rsaVerify (strip : Bool) (h : BReg) (sig : BReg) (n : BReg) : Statement (.rsaVerify strip h sig n) := by
  rw [Statement, encode, pack_and_word, mask_fields]
  simp only [fieldsOf, fieldsWith, opcode, maskFields, BitVec.ofNat_eq_ofNat, BitVec.and_zero]
  decide

end RowBits

end Sys2Proof.Laws
end

