-- ==== Sys2Proof/Tests/Slice0.lean ====
section
/-! SUPPORT. The model's own tests. Expected values come from spec/95_test_vectors.md (the vector's name stands in each
docstring) and from spec/30_encoding.md R90, R94, R101. After them, one theorem for each obligation with hypotheses that shows
a state and operands which meet them. -/

namespace Sys2Proof.Tests

open Sys2Proof.Machine

/- One theorem after another: many small `decide` proofs at once would start more threads than the check allows. -/
set_option Elab.async false

/-! The checks of WellFormed refuse ill-formed words (R92, R93). -/

/-- OP 0x08 is unassigned (V-ENC-4). -/
theorem test_unassigned_op_refused :
    (unpack 0x20000000).opAssigned = false ∧ ¬ (unpack 0x20000000).WellFormed ∧ decode 0x20000000 = .illegal := by decide

/-- A non-zero unused field: S (V-ENC-2, 9, 17), FC (V-ENC-7), FA (V-ENC-13), PA (V-ENC-16). -/
theorem test_unused_field_refused :
    ¬ (unpack 0x00000001).WellFormed ∧ ¬ (unpack 0x48100081).WellFormed ∧ ¬ (unpack 0x84000001).WellFormed ∧
    ¬ (unpack 0x15044000).WellFormed ∧ ¬ (unpack 0xC8448C01).WellFormed ∧ ¬ (unpack 0x4C000090).WellFormed := by decide

/-- A non-zero unused field: FB, FD, PB, PC, set in NOP's word (R90). -/
theorem test_unused_field_refused_rest :
    ¬ (unpack 0x00040000).WellFormed ∧ ¬ (unpack 0x00000400).WellFormed ∧ ¬ (unpack 0x00000010).WellFormed ∧
    ¬ (unpack 0x00000002).WellFormed ∧ (unpack 0x00000000).WellFormed := by decide

/-- The reserved words of V-ENC-2, 6, 7, 9, 13, 16, 17. -/
theorem test_decode_reserved :
    decode 0x00000001 = .reserved .nop ∧ decode 0x0CC48001 = .reserved .modmul ∧
    decode 0x15044000 = .reserved .modred ∧ decode 0x48100081 = .reserved .ecmul ∧
    decode 0xC8448C01 = .reserved .rsaVerify ∧ decode 0x4C000090 = .reserved .ecchk ∧
    decode 0x84000001 = .reserved .ecdsaSign := by decide

/-! Every constructor's decoding, from the words of 95_test_vectors.md section 2.1; one of each family is written bit by bit:
OP, FA, FB, FC, FD, PA, PB, PC, S. -/

theorem test_decode_modular :
    decode 0b00000100110001001000000000000000#32 = .cmd (.modadd 3 1 2 0) ∧
    decode 0x00000000 = .cmd .nop ∧
    decode 0x04C48000 = .cmd (.modadd 3 1 2 0) ∧
    decode 0x09048000 = .cmd (.modsub 4 1 2 0) ∧
    decode 0x0CC48000 = .cmd (.modmul 3 1 2 0) ∧
    decode 0x11048000 = .cmd (.montmul 4 1 2 0) ∧
    decode 0x15040000 = .cmd (.modred 4 1 0) ∧
    decode 0x19040000 = .cmd (.modinv 4 1 0) ∧
    decode 0x1D518400 = .cmd (.modexp 5 4 6 1) := by decide

theorem test_decode_curve :
    decode 0b01000000000000000000000100000010#32 = .cmd (.ecadd 2 0 1) ∧
    decode 0x40000102 = .cmd (.ecadd 2 0 1) ∧
    decode 0x44000100 = .cmd (.ecdbl 2 0) ∧
    decode 0x48040100 = .cmd (.ecmul 2 1 0) ∧
    decode 0x48100080 = .cmd (.ecmul 1 4 0) ∧
    decode 0x4C000010 = .cmd (.ecchk 1) := by decide

theorem test_decode_ecdsa :
    decode 0b10000101010001001001100000000000#32 = .cmd (.ecdsaSign 5 6 1 2) ∧
    decode 0x80800000 = .cmd (.ecdsaKeygen 2 0) ∧
    decode 0x84C49000 = .cmd (.ecdsaSign 3 4 1 2) ∧
    decode 0x8804D000 = .cmd (.ecdsaVerify 1 3 4 0) := by decide

theorem test_decode_rsa :
    decode 0b11000101000011001000010000000000#32 = .cmd (.rsaSign 4 3 2 1) ∧
    decode 0xC0480000 = .cmd (.rsaKeygen 1 2) ∧
    decode 0xC50C8400 = .cmd (.rsaSign 4 3 2 1) ∧
    decode 0xC80D0400 = .cmd (.rsaVerify false 3 4 1) ∧
    decode 0xC8048C01 = .cmd (.rsaVerify true 1 2 3) := by decide

/-- The host's numbering of a word is the word's own. -/
theorem test_decode_table_word :
    decodeTableWord 32 0x0CC48000 = some (.modmul 3 1 2 0) ∧ decodeTableWord 32 0x00000001 = none ∧
    decodeTableWord 32 0xFC000000 = none := by decide

/-! A small machine: OPW = 256, PBITS = 64, the window at 0, and chosen registers. -/

def small : Params := ⟨256, 64, 0⟩

/-- The toy curve of 95_test_vectors.md. -/
def toy : CurveCfg := ⟨17, 2, 2, 19, 5, 1⟩

/-- A machine with the listed registers written and the listed answers at the ports. -/
def machine (par : Params) (bs : List (BReg × Nat)) (ps : List (PReg × Point)) (rng : List Nat)
    (prime : List (Option Nat)) : State :=
  { State.reset with
      par := par
      cfg := toy
      big := bs.foldl (fun v x => v.set x.1.val (BigReg.full par x.2) x.1.isLt) State.reset.big
      pt := ps.foldl (fun v x => v.set x.1.val (PointReg.full par x.2) x.1.isLt) State.reset.pt
      draws := ⟨rng, prime, 0⟩ }

/-- The small machine. -/
def mach : List (BReg × Nat) → List (PReg × Point) → List Nat → List (Option Nat) → State := machine small

/-- The completion of the command word w on the machine: one step. -/
def run (w : Nat) (s : State) : Host.Outcome State Fault Refusal := step (s.withFetchWord 32 w)

/-- What a test looks at after a step. -/
def after (f : State → α) : Host.Outcome State Fault Refusal → Option α
  | .next t => some (f t)
  | .fault _ => none
  | .refused _ => none

/-- A value in a big register, with ERRCODE and RESULT. -/
def big (r : BReg) (t : State) : Nat × ErrCode × Bool := (t.big[r].value, t.err, t.result)

/-- A point in a point register, with ERRCODE and RESULT. -/
def pt (r : PReg) (t : State) : Point × ErrCode × Bool := (t.pt[r].point, t.err, t.result)

/-- STATUS and ERRCODE as numbers. -/
def flags (t : State) : Nat × Nat := (t.statusWord.toNat, t.errWord.toNat)

/-! The modular group. -/

/-- R115. -/
theorem test_nop : after flags (run 0x00000000 (mach [] [] [] [])) = some (2, 0) := by decide

/-- V-MOD-1. -/
theorem test_modadd :
    after (big 3) (run 0x04C48000 (mach [(1, 5), (2, 6), (0, 7)] [] [] [])) = some (4, .none, false) := by decide +kernel

/-- V-MOD-3 with V-HOST-14. -/
theorem test_modadd_bad_modulus :
    after flags (run 0x04C48000 (mach [(1, 5), (2, 6), (0, 0)] [] [] [])) = some (6, 5) := by decide +kernel

/-- V-MOD-4. -/
theorem test_modsub :
    after (big 4) (run 0x09048000 (mach [(1, 3), (2, 5), (0, 7)] [] [] [])) = some (5, .none, false) := by decide +kernel

/-- V-MOD-6. -/
theorem test_modmul :
    after (big 3) (run 0x0CC48000 (mach [(1, 5), (2, 7), (0, 3233)] [] [] [])) = some (35, .none, false) := by
  decide +kernel

/-- V-MOD-7. -/
theorem test_modmul_even :
    after (big 3) (run 0x0CC48000 (mach [(1, 3), (2, 4), (0, 10)] [] [] [])) = some (0, .badModulus, false) := by
  decide +kernel

/-- V-MOD-9. -/
theorem test_montmul :
    after (big 4) (run 0x11048000 (mach [(1, 5), (2, 7), (0, 3233)] [] [] [])) = some (921, .none, false) := by
  decide +kernel

/-- V-MOD-13. -/
theorem test_montmul_range :
    after flags (run 0x11048000 (mach [(1, 3233), (2, 1), (0, 3233)] [] [] [])) = some (6, 6) := by decide +kernel

/-- V-MOD-16. -/
theorem test_modred :
    after (big 4) (run 0x15040000 (mach [(1, 0x1F), (0, 7)] [] [] [])) = some (3, .none, false) := by decide +kernel

/-- V-MOD-18. -/
theorem test_modinv :
    after (big 4) (run 0x19040000 (mach [(1, 65537), (0, 3120)] [] [] [])) = some (2753, .none, false) := by
  decide +kernel

/-- V-MOD-19. -/
theorem test_modinv_not_invertible :
    after flags (run 0x19040000 (mach [(1, 6), (0, 9)] [] [] [])) = some (6, 7) := by decide +kernel

/-- V-MOD-27. -/
theorem test_modexp :
    after (big 5) (run 0x1D518400 (mach [(4, 588), (6, 65537), (1, 3233)] [] [] [])) = some (65, .none, false) := by
  decide +kernel

/-- V-MOD-25. -/
theorem test_modexp_zero :
    after (big 5) (run 0x1D518400 (mach [(4, 0), (6, 0), (1, 3233)] [] [] [])) = some (1, .none, false) := by
  decide +kernel

/-! The elliptic-curve group. -/

/-- V-EC-1. -/
theorem test_ecadd :
    after (pt 2) (run 0x40000102 (mach [] [(0, .aff 5 1), (1, .aff 6 3)] [] [])) = some (.aff 10 6, .none, false) := by
  decide +kernel

/-- V-EC-3. -/
theorem test_ecadd_off_curve :
    after flags (run 0x40000102 (mach [] [(0, .aff 5 1), (1, .aff 5 2)] [] [])) = some (6, 7) := by decide +kernel

/-- V-EC-7. -/
theorem test_ecdbl :
    after (pt 2) (run 0x44000100 (mach [] [(0, .aff 5 1)] [] [])) = some (.aff 6 3, .none, false) := by decide +kernel

/-- V-HOST-17: X and Y are unwritten. -/
theorem test_ecdbl_identity :
    after (pt 2) (run 0x44000100 ((mach [] [] [] []).storePoint 0 ⟨true, true, BigReg.reset, BigReg.reset⟩)) =
      some (.inf, .none, false) := by decide +kernel

/-- V-EC-9. -/
theorem test_ecmul_order :
    after (pt 2) (run 0x48040100 (mach [(1, 19)] [(0, .aff 5 1)] [] [])) = some (.inf, .none, false) := by
  decide +kernel

/-- V-EC-23: the literal loop on a point off the curve. -/
theorem test_ecmul_off_curve :
    after (pt 2) (run 0x48040100 (mach [(1, 3)] [(0, .aff 5 2)] [] [])) = some (.aff 16 6, .none, false) := by
  decide +kernel

/-- V-EC-14: on the curve, and out of range without an error. -/
theorem test_ecchk :
    after flags (run 0x4C000010 (mach [] [(1, .aff 5 1)] [] [])) = some (0xA, 0) ∧
    after flags (run 0x4C000010 (mach [] [(1, .aff 22 1)] [] [])) = some (2, 0) := by decide +kernel

/-- V-EC-21: an even CFG_P. -/
theorem test_ecchk_bad_config :
    after flags (run 0x4C000010 { mach [] [(1, .aff 5 1)] [] [] with cfg := { toy with p := 16 } }) = some (6, 4) := by
  decide +kernel

/-! ECDSA. -/

/-- V-DSA-1. -/
theorem test_ecdsa_keygen :
    after (fun t => (big 2 t, pt 0 t)) (run 0x80800000 (mach [] [] [7] [])) =
      some ((7, .none, false), (.aff 0 6, .none, false)) := by decide +kernel

/-- V-DSA-3. -/
theorem test_ecdsa_sign :
    after (fun t => (t.big[3].value, t.big[4].value, t.tries.toNat, t.err))
      (run 0x84C49000 (mach [(1, 10), (2, 7)] [] [7, 3] [])) = some (10, 14, 2, .none) := by decide +kernel

/-- V-DSA-5. -/
theorem test_ecdsa_sign_exhausted :
    after (fun t => (t.big[3].written, t.tries.toNat, t.err))
      (run 0x84C49000 { mach [(1, 10), (2, 7)] [] [7, 7, 7] [] with signmax := 3 }) =
      some (0, 3, .retryExhausted) := by decide +kernel

/-- V-DSA-6. -/
theorem test_ecdsa_verify :
    after flags (run 0x8804D000 (mach [(1, 10), (3, 10), (4, 14)] [(0, .aff 0 6)] [] [])) = some (0xA, 0) := by
  decide +kernel

/-- V-DSA-8: r = n is a false answer, no error. -/
theorem test_ecdsa_verify_range :
    after flags (run 0x8804D000 (mach [(1, 10), (3, 19), (4, 14)] [(0, .aff 0 6)] [] [])) = some (2, 0) := by
  decide +kernel

/-! RSA. -/

/-- V-RSA-1. -/
theorem test_rsa_keygen :
    after (fun t => (big 1 t, big 2 t)) (run 0xC0480000 (mach [] [] [] [some 61, some 53])) =
      some ((3233, .none, false), (2753, .none, false)) := by decide +kernel

/-- V-RSA-7. -/
theorem test_rsa_keygen_range :
    after flags (run 0xC0480000 (mach [] [] [] [some 61, some (2 ^ 64)])) = some (6, 8) := by decide +kernel

/-- V-RSA-9. -/
theorem test_rsa_sign :
    after (big 4) (run 0xC50C8400 (mach [(3, 65), (2, 2753), (1, 3233)] [] [] [])) = some (588, .none, false) := by
  decide +kernel

/-- V-RSA-12 and V-RSA-13. -/
theorem test_rsa_verify :
    after flags (run 0xC80D0400 (mach [(3, 65), (4, 588), (1, 3233)] [] [] [])) = some (0xA, 0) ∧
    after flags (run 0xC80D0401 (mach [(3, 65), (4, 588), (1, 3233)] [] [] [])) = some (2, 0) := by decide +kernel

/-- The digest H, the padded block EM and the block with a DigestInfo prefix of V-RSA-20 and V-RSA-24, against strip_match. -/
def digestH : Nat := 0x315f5bdb76d078c43b8ac0064e4a0164612b1fce77c869345bfc94c75894edd3
def blockEM : Nat := 0x1ffffffffffffffffffffffffffffff00315f5bdb76d078c43b8ac0064e4a0164612b1fce77c869345bfc94c75894edd3

theorem test_strip_match :
    stripMatch blockEM digestH = true ∧ stripMatch digestH digestH = false ∧ stripMatch 0 0 = false := by decide +kernel

/-! The host interface: one step on one host access. -/

/-- The answer of the block after reset (reference configuration) to one read. -/
def readAtReset (addr size : Nat) : Option BusResp :=
  after State.resp (step { State.reset with inputs := [.read addr size] })

/-- V-HOST-1, V-HOST-2, V-HOST-3, V-HOST-7, V-HOST-8. -/
theorem test_reads_after_reset :
    readAtReset 0x000 4 = some (.data 0x43534331) ∧ readAtReset 0x004 4 = some (.data 0x04000800) ∧
    readAtReset 0x01C 4 = some (.data 0x10) ∧ readAtReset 0x1400 4 = some (.data 7) ∧
    readAtReset 0x1404 4 = some (.data 0) ∧ readAtReset 0x0020 4 = some (.data 0) ∧
    readAtReset 0x1C00 4 = some (.data 0) ∧ readAtReset 0x0002 4 = some .busError ∧
    readAtReset 0x0000 2 = some .busError := by decide +kernel

/-- R63: an unspecified read of an INF word leaves bit 0 open only. -/
theorem test_unwritten_inf_reads_zero_above :
    readAtReset 0x4000 4 = some (.data (Config.freeWord 0 &&& 1)) := by rfl

/-- One write to a machine. -/
def write (s : State) (off : Nat) (v : Word) : Host.Outcome State Fault Refusal :=
  step { s with inputs := [.write (s.par.wbase + off) 4 v] }

/-- V-HOST-5, V-HOST-6. -/
theorem test_signmax_write :
    after State.signmax (write (mach [] [] [] []) 0x01C 0) = some 1 ∧
    after State.signmax (write (mach [] [] [] []) 0x01C 0x1FF) = some 0xFF := by decide +kernel

/-- V-HOST-9, V-HOST-10. -/
theorem test_lock :
    after (fun t => (t.wrdrop, t.cfg.p)) (write { mach [] [] [] [] with lock := true } 0x1000 5) = some (true, 17) ∧
    after State.lock (write { mach [] [] [] [] with lock := true } 0x008 0) = some true := by decide +kernel

/-- V-HOST-11, V-HOST-12. -/
theorem test_writes_while_busy :
    after (fun t => (t.wrdrop, t.big[1].value)) (write ((mach [(1, 3)] [] [] []).accept 0x15040000) 0x2200 9) =
      some (true, 3) ∧
    after (fun t => (t.cmdovr, t.cmd)) (write ((mach [(1, 3)] [] [] []).accept 0x15040000) 0x010 0x09048000) =
      some (true, 0x15040000) := by decide +kernel

/-- V-HOST-13. -/
theorem test_irq :
    after State.irq (run 0 { mach [] [] [] [] with ie := true }) = some true ∧
    after State.irq (write { mach [] [] [] [] with ie := true, done := true } 0x00C 2) = some false := by decide +kernel

/-- V-HOST-15. -/
theorem test_reset_while_busy :
    after (fun t => (t.busy, t.done, t.big[1].written, t.cfg))
      (step { (mach [(1, 3)] [] [] []).accept 0x15040000 with inputs := [.resetAssert] }) =
      some (false, false, 0, CurveCfg.reset) := by decide +kernel

/-- The fault that the spec's step takes at the completion of the command word w. -/
def faultOf (w : Nat) (s : State) : Option ModelFault :=
  match modelStep (s.withFetchWord 32 w) with
  | .next _ => none
  | .fault r => some r
  | .refused _ => none

/-- V-HOST-16, and before DEST_ALIAS (V-ENC-11's word with its operands unwritten, R245). V-HOST-17, illegal and reserved words
(R22), and a command whose words are written do not fault. -/
theorem test_unwritten_operand_faults :
    faultOf 0x15040000 (mach [] [] [] []) = some (.unwrittenOperand (.modred 4 1 0)) ∧
    faultOf 0x85459400 (mach [] [] [] []) = some (.unwrittenOperand (.ecdsaSign 5 5 1 6)) ∧
    faultOf 0x44000100 ((mach [] [] [] []).storePoint 0 ⟨true, true, BigReg.reset, BigReg.reset⟩) = none ∧
    faultOf 0xFC000000 (mach [] [] [] []) = none ∧ faultOf 0x15044000 (mach [] [] [] []) = none ∧
    faultOf 0x15040000 (mach [(1, 3), (0, 7)] [] [] []) = none := by decide +kernel

/-- The hardware's step completes such a command, and its first command is recorded (R22; log 7). -/
theorem test_unwritten_operand_recorded :
    after (fun t => (t.unwrittenOperand, t.done)) (run 0x85459400 (mach [] [] [] [])) =
      some (some (.ecdsaSign 5 5 1 6), true) ∧
    after State.unwrittenOperand (run 0x44000100 ((mach [] [] [] []).storePoint 0 ⟨true, true, BigReg.reset, BigReg.reset⟩)) =
      some none := by decide +kernel

/-- R22: right after reset a command that reads a register completes. -/
theorem test_command_after_reset_completes : ∃ t, run 0x04C48000 State.reset = .next t := ⟨_, rfl⟩

/-- R66, R70: word 1 of a value is bits 63 to 32. -/
theorem test_word_order :
    after (fun t => t.big[0].value) (write (mach [(0, 0)] [] [] []) 0x2004 1) = some (2 ^ 32) := by decide +kernel

/-! Witnesses: states and operands that meet the hypotheses of the obligations, clause by clause. -/

theorem witness_EncodeUndoesDecode : decode 0x04C48000 = .cmd (.modadd 3 1 2 0) := by decide

theorem witness_UnusedFieldsMustBeZero :
    ((unpack 1).opAssigned = true ∧ (unpack 1).unusedZero = false) ∧
    ((unpack 0).opAssigned = true ∧ (unpack 0).unusedZero = true) := by decide

/-- The first unassigned OP of each gap and the last of all. -/
theorem witness_UnassignedOpcodeIsIllegal :
    (unpack 0x20000000).opAssigned = false ∧ (unpack 0x50000000).opAssigned = false ∧
    (unpack 0x8C000000).opAssigned = false ∧ (unpack 0xCC000000).opAssigned = false ∧
    (unpack 0xFC000000).opAssigned = false := by decide

/-- A command, an illegal word and a reserved word, each with no input listed and with the completion next. -/
theorem witness_StepRunsTheDecodedCommand :
    (State.reset.accept 0).phase = .busy 0 State.reset.liveSnapshot ∧ decode 0 = .cmd .nop ∧
    (State.reset.accept 0xFC000000).phase = .busy 0xFC000000 State.reset.liveSnapshot ∧ decode 0xFC000000 = .illegal ∧
    (State.reset.accept 1).phase = .busy 1 State.reset.liveSnapshot ∧ decode 1 = .reserved .nop ∧
    (State.reset.accept 1).inputs = [] ∧
    { State.reset.accept 1 with inputs := [.complete] }.inputs = .complete :: [] := by decide +kernel

theorem witness_PlacedWordRunsNext : decode 0 = .cmd .nop := by decide

/-- A state with one write of CMD to come. -/
def cmdWrite (s : State) : State := { s with inputs := [.write (s.par.wbase + 0x010) 4 0xFC000000] }

theorem witness_CmdWriteAcceptsOrOverruns :
    ((cmdWrite State.reset).resetLine = false ∧ (cmdWrite State.reset).phase = .idle) ∧
    ((cmdWrite (State.reset.accept 0)).resetLine = false ∧
      (cmdWrite (State.reset.accept 0)).phase = .busy 0 State.reset.liveSnapshot) ∧
    decode 0xFC000000 = .illegal := by decide +kernel

theorem witness_ResetSetsEveryItem :
    { State.reset.accept 0 with inputs := [.resetAssert] }.inputs = .resetAssert :: [] ∧
    { State.reset.assertReset with inputs := [.resetRelease] }.inputs = .resetRelease :: [] := ⟨rfl, rfl⟩

/-- A busy state in the small machine meets the invariant and steps. -/
theorem witness_EveryStepKeepsTheInvariant :
    ∃ s t : State, s.Inv ∧ s.busy = true ∧ step s = .next t := by
  have hbig : ∀ i : BReg, State.reset.big[i] = BigReg.reset := by decide
  have hpt : ∀ j : PReg, State.reset.pt[j] = PointReg.reset := by decide
  have hwf : BigReg.reset.Wf small := by
    refine ⟨by decide, fun k h => ?_, fun k _ => ?_⟩
    · simp [BigReg.reset] at h
    · simp [BigReg.reset, wordOf]
  refine ⟨(mach [] [] [] []).accept 0, _, ⟨by decide, fun i => ?_, fun j => ?_, ⟨?_, ?_, ?_, ?_, ?_, ?_⟩, by decide, by decide, ?_⟩,
    rfl, rfl⟩
  · show BigReg.Wf small State.reset.big[i]
    rw [hbig i]; exact hwf
  · show PointReg.Wf small State.reset.pt[j]
    rw [hpt j]; exact ⟨hwf, hwf⟩
  all_goals first | decide | exact ⟨rfl, rfl, rfl, rfl, rfl, rfl⟩

/-- From a test on the state after a step to the existence of that state. -/
theorem exists_of_after {α : Type} (f : State → α) (P : α → Prop) (o : Host.Outcome State Fault Refusal) (v : α)
    (h : after f o = some v) (hp : P v) : ∃ t, o = .next t ∧ P (f t) := by
  cases o with
  | next t => simp only [after, Option.some.injEq] at h; exact ⟨t, rfl, h ▸ hp⟩
  | fault e => simp [after] at h
  | refused e => simp [after] at h

theorem witness_IdAndParamNeverChange : ∃ t, step State.reset = .next t := ⟨_, rfl⟩

theorem witness_UnwrittenOperandsAreFreeValues :
    decode 0x15040000 = .cmd (.modred 4 1 0) ∧ (State.reset.accept 0x15040000).inputs = [] ∧
    State.reset.par.Legal ∧ ((State.reset.accept 0x15040000).phase = .busy 0x15040000 State.reset.liveSnapshot ∧
      operandsWritten State.reset.par State.reset.liveSnapshot (.modred 4 1 0) = false) ∧
    operandsWritten small (mach [(1, 3), (0, 7)] [] [] []).operands (.modred 4 1 0) = true ∧
    0 < Params.reference.words ∧ 63 < Params.reference.words := by decide +kernel

theorem witness_ErrorsArePrecise :
    (∃ t, completeWord 0xFC000000 State.reset = .next t ∧ t.err ≠ .none) ∧
    ¬ ∃ i, decode 0xFC000000 = .cmd i ∧ opcode i = .ecdsaSign := by
  refine ⟨exists_of_after State.err (· ≠ .none) _ .illegalOpcode (by decide) (by decide), ?_⟩
  rintro ⟨i, h, -⟩
  have : decode 0xFC000000 = .illegal := by decide
  rw [this] at h
  cases h

theorem witness_CommandsWriteOnlyTheirDestinations :
    (∃ t, exec .nop State.reset = .next t) ∧ opcode .nop ≠ .ecdsaSign ∧ opcode .nop ≠ .ecdsaKeygen ∧
    opcode .nop ≠ .rsaKeygen := ⟨⟨_, rfl⟩, by decide⟩

theorem witness_ResultOnlyFromBooleanCommands :
    ∃ t, completeWord 0x4C000010 (mach [] [(1, .aff 5 1)] [] []) = .next t ∧ t.result = true :=
  exists_of_after State.result (· = true) _ true (by decide +kernel) rfl

theorem witness_ErrorsAreRaisedByTheirCommands :
    (∃ t, completeWord 0x04C48000 (mach [(1, 5), (2, 6), (0, 0)] [] [] []) = .next t ∧ t.err = .badModulus) ∧
    decode 0x04C48000 = .cmd (.modadd 3 1 2 0) :=
  ⟨exists_of_after State.err (· = .badModulus) _ .badModulus (by decide +kernel) rfl, by decide⟩

/-- The completion of an ECDSA_SIGN word, and reset, each change TRIES. -/
theorem witness_TriesChangesOnlyBySigning :
    (∃ t, step { State.reset with tries := 2, inputs := [.resetAssert] } = .next t ∧ t.tries ≠ 2) ∧
    ∃ t, step ((mach [(1, 10), (2, 7)] [] [7, 3] []).accept 0x84C49000) = .next t ∧ t.tries ≠ 0 :=
  ⟨exists_of_after State.tries (· ≠ 2) _ 0 (by decide +kernel) (by decide),
    exists_of_after State.tries (· ≠ 0) _ 2 (by decide +kernel) (by decide)⟩

theorem witness_NopChangesNoRegister :
    ((unpack 0x00000001).op = 0 ∧ (0x00000001 : Word) ≠ 0) ∧ ((unpack 0x03FFFFFF).op = 0 ∧ (0x03FFFFFF : Word) ≠ 0) := by
  decide

/-- The small machine with the operands a, b, m in B1, B2, B0. -/
def operands3 (a b m : Nat) : State := mach [(1, a), (2, b), (0, m)] [] [] []

theorem witness_ModaddAddsModulo :
    ((operands3 5 6 0).Ready (.modadd 3 1 2 0) ∧ (operands3 5 6 0).operands.b 0 = 0) ∧
    ((operands3 5 6 1).Ready (.modadd 3 1 2 0) ∧ 1 ≤ (operands3 5 6 1).operands.b 0) := by decide +kernel

theorem witness_ModsubSubtractsModulo :
    ((operands3 5 6 0).Ready (.modsub 3 1 2 0) ∧ (operands3 5 6 0).operands.b 0 = 0) ∧
    ((operands3 5 6 1).Ready (.modsub 3 1 2 0) ∧ 1 ≤ (operands3 5 6 1).operands.b 0) := by decide +kernel

theorem witness_ModmulMultipliesModulo :
    ((operands3 5 6 1).Ready (.modmul 3 1 2 0) ∧ (operands3 5 6 1).operands.b 0 < 3) ∧
    ((operands3 5 6 4).Ready (.modmul 3 1 2 0) ∧ (operands3 5 6 4).operands.b 0 % 2 = 0) ∧
    ((operands3 5 6 3).Ready (.modmul 3 1 2 0) ∧ (operands3 5 6 3).operands.b 0 % 2 = 1 ∧
      3 ≤ (operands3 5 6 3).operands.b 0) := by decide +kernel

theorem witness_MontmulIsTheMontgomeryProduct :
    ((operands3 0 0 1).Ready (.montmul 3 1 2 0) ∧ (operands3 0 0 1).operands.b 0 < 3) ∧
    ((operands3 3 0 3).Ready (.montmul 3 1 2 0) ∧ (operands3 3 0 3).operands.b 0 % 2 = 1 ∧
      3 ≤ (operands3 3 0 3).operands.b 0 ∧ (operands3 3 0 3).operands.b 0 ≤ (operands3 3 0 3).operands.b 1) ∧
    ((operands3 2 2 3).Ready (.montmul 3 1 2 0) ∧ (operands3 2 2 3).operands.b 0 % 2 = 1 ∧
      3 ≤ (operands3 2 2 3).operands.b 0 ∧ (operands3 2 2 3).operands.b 1 < (operands3 2 2 3).operands.b 0 ∧
      (operands3 2 2 3).operands.b 2 < (operands3 2 2 3).operands.b 0) := by decide +kernel

theorem witness_ModredReduces :
    ((operands3 5 0 0).Ready (.modred 3 1 0) ∧ (operands3 5 0 0).operands.b 0 = 0) ∧
    ((operands3 5 0 1).Ready (.modred 3 1 0) ∧ 1 ≤ (operands3 5 0 1).operands.b 0) := by decide +kernel

theorem witness_ModinvInverts :
    ((operands3 5 0 1).Ready (.modinv 3 1 0) ∧ (operands3 5 0 1).operands.b 0 < 2) ∧
    ((operands3 2 0 2).Ready (.modinv 3 1 0) ∧ 2 ≤ (operands3 2 0 2).operands.b 0 ∧
      Nat.gcd ((operands3 2 0 2).operands.b 1 % (operands3 2 0 2).operands.b 0) ((operands3 2 0 2).operands.b 0) ≠ 1) ∧
    ((operands3 3 0 2).Ready (.modinv 3 1 0) ∧ 2 ≤ (operands3 3 0 2).operands.b 0 ∧
      Nat.gcd ((operands3 3 0 2).operands.b 1 % (operands3 3 0 2).operands.b 0) ((operands3 3 0 2).operands.b 0) = 1) := by
  decide +kernel

theorem witness_ModexpExponentiates :
    ((operands3 0 0 1).Ready (.modexp 3 1 2 0) ∧ (operands3 0 0 1).operands.b 0 < 3) ∧
    ((operands3 0 0 3).Ready (.modexp 3 1 2 0) ∧ (operands3 0 0 3).operands.b 0 % 2 = 1 ∧
      3 ≤ (operands3 0 0 3).operands.b 0) := by decide +kernel

theorem witness_MontgomeryDomainIdentities : 3 % 2 = 1 ∧ 3 ≤ 3 := by decide

/-- A curve over a modulus that is not prime. -/
def composite : CurveCfg := ⟨9, 2, 2, 19, 5, 3⟩

theorem witness_DoublingIsTheTangentRule :
    (2 ≤ composite.p ∧ 3 ≠ 0 ∧ Nat.gcd (2 * 3 % composite.p) composite.p ≠ 1) ∧
    (2 ≤ toy.p ∧ 1 ≠ 0 ∧ Nat.gcd (2 * 1 % toy.p) toy.p = 1) := by decide

theorem witness_AdditionIsTheChordRule :
    (2 ≤ toy.p ∧ 5 < toy.p ∧ 1 < toy.p ∧ 16 < toy.p ∧ (1 : Nat) ≠ 16 ∧ (1 + 16) % toy.p = 0 ∧ (1 + 2) % toy.p ≠ 0) ∧
    (3 < composite.p ∧ Int.gcd ((0 : Int) - 3) composite.p ≠ 1) ∧
    (6 < toy.p ∧ Int.gcd ((5 : Int) - 6) toy.p = 1) := by decide

theorem witness_ScalarMultiplicationIsDoubleAndAdd :
    ecMul composite 2 (.aff 0 3) = .error .notInvertible ∧
    (ecMul composite 1 (.aff 0 3) = .ok (.aff 0 3) ∧ ecDbl composite (.aff 0 3) = .error .notInvertible) ∧
    (ecMul toy 1 (.aff 5 1) = .ok (.aff 5 1) ∧ ecDbl toy (.aff 5 1) = .ok (.aff 6 3)) := by
  refine ⟨?_, ⟨?_, ?_⟩, ?_, ?_⟩ <;> rfl

/-- The small machine over a configuration, with the points p and q in P0 and P1 and the scalar k in B1. -/
def points (c : CurveCfg) (k : Nat) (p q : Point) : State :=
  { mach [(1, k)] [(0, p), (1, q)] [] [] with cfg := c }

/-- A configuration that fails the check: p is even. -/
def evenP : CurveCfg := { toy with p := 16 }

theorem witness_EcaddCompletes :
    ((points evenP 0 .inf .inf).Ready (.ecadd 2 0 1) ∧ ¬ evenP.Good) ∧
    ((points toy 0 (.aff 17 1) .inf).Ready (.ecadd 2 0 1) ∧ toy.Good ∧ (Point.aff 17 1).inRange 17 = false) ∧
    ((points toy 0 (.aff 16 1) (.aff 6 3)).Ready (.ecadd 2 0 1) ∧ (Point.aff 16 1).inRange 17 = true ∧
      (Point.aff 6 3).inRange 17 = true) ∧
    (ecAdd toy (.aff 5 1) (.aff 6 3)).toOption = some (.aff 10 6) ∧
    ((points toy 0 (.aff 5 1) (.aff 5 2)).Ready (.ecadd 2 0 1) ∧ (Point.aff 5 2).inRange 17 = true ∧
      (ecAdd toy (.aff 5 1) (.aff 5 2)).toOption = none) := by decide +kernel

theorem witness_EcdblCompletes :
    ((points evenP 0 .inf .inf).Ready (.ecdbl 2 0) ∧ ¬ evenP.Good) ∧
    ((points toy 0 (.aff 17 1) .inf).Ready (.ecdbl 2 0) ∧ toy.Good ∧ (Point.aff 17 1).inRange 17 = false) ∧
    ((points toy 0 (.aff 5 1) .inf).Ready (.ecdbl 2 0) ∧ (Point.aff 5 1).inRange 17 = true ∧
      (ecDbl toy (.aff 5 1)).toOption = some (.aff 6 3)) ∧
    ((points composite 0 (.aff 0 3) .inf).Ready (.ecdbl 2 0) ∧ composite.Good ∧ (Point.aff 0 3).inRange 9 = true ∧
      (ecDbl composite (.aff 0 3)).toOption = none) := by decide +kernel

theorem witness_EcmulCompletes :
    ((points evenP 0 .inf .inf).Ready (.ecmul 2 1 0) ∧ ¬ evenP.Good) ∧
    ((points toy 0 (.aff 17 1) .inf).Ready (.ecmul 2 1 0) ∧ toy.Good ∧ (Point.aff 17 1).inRange 17 = false) ∧
    ((points toy 19 (.aff 5 1) .inf).Ready (.ecmul 2 1 0) ∧ (Point.aff 5 1).inRange 17 = true ∧
      (ecMul toy 19 (.aff 5 1)).toOption = some .inf) ∧
    ((points composite 2 (.aff 0 3) .inf).Ready (.ecmul 2 1 0) ∧ composite.Good ∧ (Point.aff 0 3).inRange 9 = true ∧
      (ecMul composite 2 (.aff 0 3)).toOption = none) := by decide +kernel

theorem witness_EcchkAnswersMembership :
    ((points evenP 0 .inf .inf).Ready (.ecchk 0) ∧ ¬ evenP.Good) ∧
    ((points toy 0 (.aff 5 1) .inf).Ready (.ecchk 0) ∧ toy.Good) := by decide +kernel

theorem witness_GroupOperationsStayOnTheCurve :
    toy.Good ∧ (Point.aff 5 1).inRange toy.p = true ∧ (Point.aff 6 3).inRange toy.p = true ∧ Nat.Prime toy.p ∧
    onCurve toy (.aff 5 1) = true ∧ onCurve toy (.aff 6 3) = true ∧
    (ecAdd toy (.aff 5 1) (.aff 6 3)).toOption = some (.aff 10 6) :=
  ⟨by decide, by decide, by decide, by norm_num [toy], by decide, by decide, by decide +kernel⟩

theorem witness_EcdsaKeygenCompletes :
    (small.Legal ∧ ¬ evenP.Good) ∧
    (toy.Good ∧ drawRng 1 toy.n ⟨[7], [], 0⟩ = (7, ⟨[], [], 0⟩) ∧ (ecMul toy 7 toy.g).toOption = some (.aff 0 6)) ∧
    (composite.Good ∧ drawRng 1 composite.n ⟨[2], [], 0⟩ = (2, ⟨[], [], 0⟩) ∧
      (ecMul composite 2 composite.g).toOption = none) := by decide +kernel

theorem witness_SigningAttemptFollowsTheEquation : 2 ≤ toy.n ∧ signAttempt toy 10 7 3 = some (10, 14) := by
  decide +kernel

/-- The signing machine of V-DSA-3: h in B1, d in B2. -/
def signer (h : Nat) (rng : List Nat) : State := { mach [(1, h), (2, 7)] [] rng [] with signmax := 3 }

theorem witness_EcdsaSignTakesTheFirstGoodNonce :
    (signer 10 [7, 3]).Ready (.ecdsaSign 3 4 1 2) ∧ (3 : BReg) ≠ 4 ∧ toy.Good ∧
    (signer 10 [7, 3]).operands.b 1 < 2 ^ 256 ∧ 1 < (signer 10 [7, 3]).operands.signmax.toNat ∧
    (∀ i < 1, signAttempt toy 10 7 (nonceAt 1 toy.n i (signer 10 [7, 3]).draws) = none) ∧
    signAttempt toy 10 7 (nonceAt 1 toy.n 1 (signer 10 [7, 3]).draws) = some (10, 14) := by decide +kernel

/-- A machine of 320 bits, so that a register can hold 2^256. -/
def wide (bs : List (BReg × Nat)) (ps : List (PReg × Point)) : State := machine ⟨320, 64, 0⟩ bs ps [] []

theorem witness_EcdsaSignErrors :
    (signer 10 []).Ready (.ecdsaSign 3 3 1 2) ∧
    ({ signer 10 [] with cfg := evenP }.Ready (.ecdsaSign 3 4 1 2) ∧ ¬ evenP.Good) ∧
    ((wide [(1, 2 ^ 256), (2, 7)] []).Ready (.ecdsaSign 3 4 1 2) ∧ toy.Good ∧
      2 ^ 256 ≤ (wide [(1, 2 ^ 256), (2, 7)] []).operands.b 1) ∧
    ((signer 10 [7, 7, 7]).Ready (.ecdsaSign 3 4 1 2) ∧
      ∀ i < (signer 10 [7, 7, 7]).operands.signmax.toNat,
        signAttempt toy 10 7 (nonceAt 1 toy.n i (signer 10 [7, 7, 7]).draws) = none) := by decide +kernel

theorem witness_SignaturesAreInRange :
    ∃ t, exec (.ecdsaSign 3 4 1 2) (signer 10 [7, 3]) = .next t ∧ t.err = .none :=
  exists_of_after State.err (· = .none) _ .none (by decide +kernel) rfl

theorem witness_EcdsaVerifyIsTotal :
    ({ mach [(1, 10), (3, 10), (4, 14)] [(0, .aff 0 6)] [] [] with cfg := evenP }.Ready (.ecdsaVerify 1 3 4 0) ∧
      ¬ evenP.Good) ∧
    ((wide [(1, 2 ^ 256), (3, 10), (4, 14)] [(0, .aff 0 6)]).Ready (.ecdsaVerify 1 3 4 0) ∧ toy.Good ∧
      2 ^ 256 ≤ (wide [(1, 2 ^ 256), (3, 10), (4, 14)] [(0, .aff 0 6)]).operands.b 1) ∧
    ((mach [(1, 2 ^ 256 - 1), (3, 10), (4, 14)] [(0, .aff 0 6)] [] []).Ready (.ecdsaVerify 1 3 4 0) ∧
      (mach [(1, 2 ^ 256 - 1), (3, 10), (4, 14)] [(0, .aff 0 6)] [] []).operands.b 1 < 2 ^ 256) := by decide +kernel

/-- The draws of V-RSA-6, 7, 8, 4, 5 and 1, and the smallest key, of the primes 2 and 3. -/
theorem witness_RsaKeygenCompletes :
    small.Legal ∧ (1 : BReg) ≠ 2 ∧
    drawPrime small ⟨[], [none], 0⟩ = (none, ⟨[], [], 0⟩) ∧
    drawPrime small ⟨[], [some 1], 0⟩ = (some 1, ⟨[], [], 0⟩) ∧ (1 : Nat) < 2 ∧
    drawPrime small ⟨[], [some (2 ^ 64)], 0⟩ = (some (2 ^ 64), ⟨[], [], 0⟩) ∧ 2 ^ small.pbits ≤ 2 ^ 64 ∧
    drawPrime small ⟨[], [some 2, some 2], 0⟩ = (some 2, ⟨[], [some 2], 0⟩) ∧ (2 - 1) * (2 - 1) < 2 ∧
    2 ≤ (917519 - 1) * (3 - 1) ∧ Nat.gcd 65537 ((917519 - 1) * (3 - 1)) ≠ 1 ∧
    2 ≤ (2 - 1) * (3 - 1) ∧ Nat.gcd 65537 ((2 - 1) * (3 - 1)) = 1 ∧ 3 < 2 ^ small.pbits := by decide +kernel

theorem witness_RsaSignExponentiates :
    ((mach [(3, 65), (2, 2753), (1, 2)] [] [] []).Ready (.rsaSign 4 3 2 1) ∧
      (mach [(3, 65), (2, 2753), (1, 2)] [] [] []).operands.b 1 % 2 = 0) ∧
    ((wide [(3, 2 ^ 256), (2, 2753), (1, 3)] []).Ready (.rsaSign 4 3 2 1) ∧
      3 ≤ (wide [(3, 2 ^ 256), (2, 2753), (1, 3)] []).operands.b 1 ∧
      2 ^ 256 ≤ (wide [(3, 2 ^ 256), (2, 2753), (1, 3)] []).operands.b 3) ∧
    ((mach [(3, 2 ^ 256 - 1), (2, 2753), (1, 3)] [] [] []).Ready (.rsaSign 4 3 2 1) ∧
      (mach [(3, 2 ^ 256 - 1), (2, 2753), (1, 3)] [] [] []).operands.b 1 % 2 = 1 ∧
      (mach [(3, 2 ^ 256 - 1), (2, 2753), (1, 3)] [] [] []).operands.b 3 < 2 ^ 256) := by decide +kernel

theorem witness_RsaVerifyCompares :
    ((mach [(3, 65), (4, 588), (1, 2)] [] [] []).Ready (.rsaVerify true 3 4 1) ∧
      (mach [(3, 65), (4, 588), (1, 2)] [] [] []).operands.b 1 % 2 = 0) ∧
    ((wide [(3, 2 ^ 256), (4, 588), (1, 3)] []).Ready (.rsaVerify false 3 4 1) ∧
      3 ≤ (wide [(3, 2 ^ 256), (4, 588), (1, 3)] []).operands.b 1 ∧
      2 ^ 256 ≤ (wide [(3, 2 ^ 256), (4, 588), (1, 3)] []).operands.b 3) ∧
    ((mach [(3, 2 ^ 256 - 1), (4, 588), (1, 3)] [] [] []).Ready (.rsaVerify true 3 4 1) ∧
      (mach [(3, 2 ^ 256 - 1), (4, 588), (1, 3)] [] [] []).Ready (.rsaVerify false 3 4 1) ∧
      (mach [(3, 2 ^ 256 - 1), (4, 588), (1, 3)] [] [] []).operands.b 1 % 2 = 1 ∧
      (mach [(3, 2 ^ 256 - 1), (4, 588), (1, 3)] [] [] []).operands.b 3 < 2 ^ 256) := by decide +kernel

theorem witness_StripMatchComparesTheTail : (2 ^ 256 - 1 : Nat) < 2 ^ 256 ∧ minimalBytes 256 = [1, 0] := by
  decide +kernel

theorem witness_RsaRoundTrip :
    Nat.Prime 3 ∧ Nat.Prime 5 ∧ (3 : Nat) ≠ 5 ∧ 3 % 2 = 1 ∧ 5 % 2 = 1 ∧ (rsaKey 3 5).toOption = some (15, 1) ∧
    14 < 2 ^ 256 ∧ 14 < 15 ∧ 15 < 2 ^ 256 ∧ 15 ≤ 15 :=
  ⟨by norm_num, by norm_num, by decide, by decide, by decide, by decide +kernel, by decide, by decide, by decide,
    by decide⟩

/-- The boundaries of the reserved ranges, and of the words of a register of 8 words. -/
theorem witness_WindowMap :
    small.Legal ∧ 127 < 128 ∧ 7 < small.words ∧ ¬ 8 < small.words ∧
    slotAt small 0xFFF = .reserved ∧ slotAt small 0x1C00 = .reserved ∧ slotAt small 0x1FFF = .reserved ∧
    slotAt small 0x4004 = .reserved ∧ slotAt small 0x41FF = .reserved ∧ slotAt small 0x7E00 = .reserved ∧
    slotAt small 0x7FFF = .reserved ∧ slotAt small 0x1BFC = .reserved ∧ slotAt small 0x1A1C = .cfgWord .gy 7 := by decide

/-- A machine after reset with one write to come. -/
def written (off : Nat) : State := { State.reset with inputs := [.write off 4 5] }

theorem witness_DataWordsReadBack :
    ((written 0x2000).turnedAway 0x2000 4 = none ∧ (written 0x2000).inputs = .write 0x2000 4 5 :: []) ∧
    State.reset.phase = .idle ∧ State.reset.lock = false ∧ 127 < 128 := by decide +kernel

theorem witness_InfAndSignmaxWrites :
    ((written 0x7800).phase = .idle ∧ (written 0x7800).turnedAway 0x7800 4 = none ∧
      slotAt Params.reference 0x7800 = .infWord 7) ∧
    ((written 0x01C).phase = .idle ∧ (written 0x01C).turnedAway 0x01C 4 = none ∧
      slotAt Params.reference 0x01C = .signmax) ∧
    (0xFF : Word) &&& 0xFF ≠ 0 ∧ (0x100 : Word) &&& 0xFF = 0 := by decide +kernel

/-- A machine with one write to come, busy or idle, locked. -/
def locked (off : Nat) : State := { State.reset with lock := true, inputs := [.write off 4 5] }

theorem witness_DroppedWritesSetWrdrop :
    ({ State.reset.accept 0 with inputs := [.write 0x2000 4 5] }.turnedAway 0x2000 4 = none ∧
      (slotAt Params.reference 0x2000).isData = true ∧ (State.reset.accept 0).busy = true) ∧
    ((locked 0x1000).turnedAway 0x1000 4 = none ∧ (slotAt Params.reference 0x1000).isData = true ∧
      (slotAt Params.reference 0x1000).isCfg = true ∧ (locked 0x1000).lock = true) ∧
    ((locked 0x2000).turnedAway 0x2000 4 = none ∧ (locked 0x2000).busy = false ∧
      (slotAt Params.reference 0x2000).isCfg = false ∧ slotAt Params.reference 0x2000 ≠ .status) ∧
    ((locked 0x008).turnedAway 0x008 4 = none ∧ slotAt Params.reference 0x008 = .ctrl) ∧
    ((locked 0x00C).turnedAway 0x00C 4 = none ∧ slotAt Params.reference 0x00C = .status) := by decide +kernel

theorem witness_RefusedAccessesChangeNothing :
    { State.reset with resetLine := true }.resetLine = true ∧
    (State.reset.resetLine = false ∧ State.reset.InWindow 0x7FFE ∧
      ¬ ((4 : Nat) = 4 ∧ (0x7FFE - State.reset.par.wbase) % 4 = 0)) ∧
    (State.reset.InWindow 0 ∧ ¬ ((2 : Nat) = 4 ∧ (0 - State.reset.par.wbase) % 4 = 0)) := by decide +kernel

theorem witness_ReadsHaveNoSideEffect :
    State.reset.turnedAway 0x7FFC 4 = none ∧ State.reset.readSlot (slotAt Params.reference 0x7FFC) = some 0 ∧
    State.reset.turnedAway 0x2000 4 = none ∧ State.reset.readSlot (slotAt Params.reference 0x2000) = none ∧
    (mach [(0, 5)] [] [] []).readSlot (.bigWord 0 7) = some 0 ∧ (mach [] [(7, .inf)] [] []).readSlot (.infWord 7) = some 1 ∧
    (mach [] [(7, .aff 5 1)] [] []).readSlot (.xWord 7 0) = some 5 ∧
    (mach [] [(7, .aff 5 1)] [] []).readSlot (.yWord 7 0) = some 1 ∧
    State.reset.turnedAway 0x4000 4 = none ∧ slotAt Params.reference 0x4000 = .infWord 0 ∧
    State.reset.readSlot (.infWord 0) = none := by decide +kernel

theorem witness_ReservedWordsReadZero :
    State.reset.turnedAway 0x000 4 = none ∧ slotAt Params.reference 0x000 = .id ∧
    State.reset.turnedAway 0x018 4 = none ∧ slotAt Params.reference 0x018 = .tries ∧
    State.reset.turnedAway 0x020 4 = none ∧ slotAt Params.reference 0x020 = .reserved ∧
    State.reset.turnedAway 0x7FFC 4 = none ∧ slotAt Params.reference 0x7FFC = .reserved := by decide +kernel

theorem witness_LockHoldsUntilReset :
    (∃ t, step (locked 0x1000) = .next t) ∧ (locked 0x1000).lock = true ∧
    ¬ ∃ rest, (locked 0x1000).inputs = .resetAssert :: rest :=
  ⟨⟨_, rfl⟩, rfl, by rintro ⟨rest, h⟩; cases h⟩

theorem witness_IrqRisesOnlyByCompletion :
    (({ State.reset.accept 0 with ie := true }.irq = false) ∧
      ∃ t, step { State.reset.accept 0 with ie := true } = .next t ∧ t.irq = true) ∧
    (({ State.reset with done := true, inputs := [.write 0x008 4 1] }.irq = false) ∧
      ∃ t, step { State.reset with done := true, inputs := [.write 0x008 4 1] } = .next t ∧ t.irq = true) :=
  ⟨⟨rfl, exists_of_after State.irq (· = true) _ true (by decide +kernel) rfl⟩,
    rfl, exists_of_after State.irq (· = true) _ true (by decide +kernel) rfl⟩

theorem witness_HostCannotChangeARunningCommand :
    (State.reset.accept 0).phase = .busy 0 State.reset.liveSnapshot ∧ decode 0 = .cmd .nop ∧
    (∃ t, takeInput (State.reset.accept 0) (.write 0x010 4 1) = .next t ∧ t.draws = State.reset.draws) ∧
    ∃ u, exec .nop (State.reset.accept 0) = .next u :=
  ⟨rfl, by decide, exists_of_after State.draws (· = State.reset.draws) _ State.reset.draws (by decide +kernel) rfl,
    ⟨_, rfl⟩⟩

/-- A run whose one command needs unwritten words, and one that reaches an end state. -/
theorem witness_BusyPhaseEnds :
    State.reset.unwrittenOperand = none ∧
    (∃ t, runSteps 1 (State.reset.accept 0x85459400) = .next t ∧ t.unwrittenOperand = some (.ecdsaSign 5 5 1 6)) ∧
    (∃ t, runSteps 1 (State.reset.accept 0) = .next t ∧ t.Ended) :=
  ⟨rfl, exists_of_after State.unwrittenOperand (· = some (.ecdsaSign 5 5 1 6)) _ (some (.ecdsaSign 5 5 1 6)) (by decide +kernel) rfl,
    ⟨_, rfl, rfl, rfl⟩⟩

theorem witness_CodeAndCountReads :
    ((∃ t, step State.reset = .next t ∧ t.phase = .idle) ∧ State.reset.phase = .idle ∧
      ¬ ∃ rest, State.reset.inputs = .resetAssert :: rest) ∧
    State.reset.turnedAway 0x014 4 = none ∧ slotAt Params.reference 0x014 = .errcode ∧
    (State.reset.completeError .retryExhausted).readSlot .errcode = some 0x0A :=
  ⟨⟨⟨_, rfl, rfl⟩, rfl, by rintro ⟨rest, h⟩; cases h⟩, by decide +kernel, by decide +kernel, by decide +kernel⟩

end Sys2Proof.Tests
end

section
/-! The registers right after reset: well formed for every legal choice of the parameters, and so the reset state meets the
invariant. -/

namespace Sys2Proof.Proofs

open Sys2Proof.Machine

/-- The reset value 0 of log 8 is what makes the unwritten words canonical. -/
theorem bigReg_reset_wf (par : Params) : BigReg.reset.Wf par where
  bound := Nat.two_pow_pos par.opw
  flags k h := by simp [BigReg.reset] at h
  canonical k _ := by simp [BigReg.reset, wordOf]

theorem pointReg_reset_wf (par : Params) : PointReg.reset.Wf par :=
  ⟨bigReg_reset_wf par, bigReg_reset_wf par⟩

/-- The secp256k1 parameters are 256-bit numbers (R37), and OPW is at least 256 (R10). -/
theorem curveCfg_reset_fits {par : Params} (h : par.Legal) : CurveCfg.reset.Fits par := by
  obtain ⟨-, hopw, -, -, -⟩ := h
  have widen {v : Nat} (hv : v < 2 ^ 256) : v < 2 ^ par.opw :=
    hv.trans_le (Nat.pow_le_pow_right Nat.zero_lt_two hopw)
  exact ⟨widen (by decide), widen (by decide), widen (by decide), widen (by decide), widen (by decide), widen (by decide)⟩

theorem reset_big_get (i : BReg) : State.reset.big[i] = BigReg.reset := Vector.getElem_replicate i.isLt

theorem reset_pt_get (j : PReg) : State.reset.pt[j] = PointReg.reset := Vector.getElem_replicate j.isLt

/-- Settles O11: every register holds its reset value, the parameters are the reference configuration, and the phase is
IDLE. -/
theorem invariantHoldsAtReset : Obligations.InvariantHoldsAtReset where
  legal := Laws.reference_legal
  big i := (reset_big_get i).symm ▸ bigReg_reset_wf _
  pt j := (reset_pt_get j).symm ▸ pointReg_reset_wf _
  cfg := curveCfg_reset_fits Laws.reference_legal
  signmax := by decide
  result _ := rfl
  busy := trivial

end Sys2Proof.Proofs
end

section
/-! What a completion does, for every command in one form: a function of the parameters, the draws and the operands, applied
to the state. -/

namespace Sys2Proof.Proofs

open Sys2Proof.Machine

/-- What the completion of a command sets: its destinations, TRIES where it writes it, the ports after its draws, ERRCODE and
RESULT (R29). -/
structure Completion where
  big : List (BReg × Nat) := []
  pt : List (PReg × Point) := []
  tries : Option (BitVec 8) := none
  draws : Draws
  code : ErrCode := .none
  result : Bool := false

namespace Completion

/-- The completion made in a state: its destinations are written in order, and the phase becomes IDLE with DONE = 1. -/
def applyTo (c : Completion) (s : State) : State :=
  { s with
      big := c.big.foldl (fun regs e => regs.set e.1.val (BigReg.full s.par e.2) e.1.isLt) s.big
      pt := c.pt.foldl (fun regs e => regs.set e.1.val (PointReg.full s.par e.2) e.1.isLt) s.pt
      tries := c.tries.getD s.tries
      draws := c.draws
      err := c.code
      result := c.result
      done := true
      phase := .idle }

def ofBig (dr : Draws) (d : BReg) : Except ErrCode Nat → Completion
  | .ok v => { big := [(d, v)], draws := dr }
  | .error code => { draws := dr, code := code }

def ofPoint (dr : Draws) (d : PReg) : Except ErrCode Point → Completion
  | .ok q => { pt := [(d, q)], draws := dr }
  | .error code => { draws := dr, code := code }

def ofBool (dr : Draws) : Except ErrCode Bool → Completion
  | .ok b => { draws := dr, result := b }
  | .error code => { draws := dr, code := code }

/-- ECDSA_KEYGEN (R181). -/
def ecdsaKeygen (dr : Draws) (c : CurveCfg) (priv : BReg) (pub : PReg) : Completion :=
  if ¬ c.Good then { draws := dr, code := .badConfig }
  else
    match keygenPoint c (drawRng 1 c.n dr).1 with
    | .error code => { draws := (drawRng 1 c.n dr).2, code := code }
    | .ok q => { big := [(priv, (drawRng 1 c.n dr).1)], pt := [(pub, q)], draws := (drawRng 1 c.n dr).2 }

/-- How ECDSA_SIGN ends after its loop (R183). -/
def ofSignRun (r sg : BReg) (run : SignRun) : Completion :=
  match run.sig with
  | some (rv, sv) => { big := [(r, rv), (sg, sv)], tries := some (BitVec.ofNat 8 run.tries), draws := run.draws }
  | none => { tries := some (BitVec.ofNat 8 run.tries), draws := run.draws, code := .retryExhausted }

/-- ECDSA_SIGN (R180, R183). -/
def ecdsaSign (dr : Draws) (o : Snapshot) (r sg h priv : BReg) : Completion :=
  if r = sg then { tries := some 0, draws := dr, code := .destAlias }
  else if ¬ o.cfg.Good then { tries := some 0, draws := dr, code := .badConfig }
  else if Config.digestBound ≤ o.b h then { tries := some 0, draws := dr, code := .operandRange }
  else ofSignRun r sg (signLoop o.cfg (o.b h) (o.b priv) o.signmax.toNat 0 dr)

/-- RSA_KEYGEN (R210, R211). -/
def rsaKeygen (par : Params) (dr : Draws) (n d : BReg) : Completion :=
  if n = d then { draws := dr, code := .destAlias }
  else
    match (rsaGenerate par dr).1 with
    | .error code => { draws := (rsaGenerate par dr).2, code := code }
    | .ok (nv, dv) => { big := [(n, nv), (d, dv)], draws := (rsaGenerate par dr).2 }

end Completion

/-- The completion of a command on its operands. -/
def completionOf (i : Instr) (par : Params) (dr : Draws) (o : Snapshot) : Completion :=
  match i with
  | .nop => { draws := dr }
  | .modadd d a b m => .ofBig dr d (modAdd (o.b a) (o.b b) (o.b m))
  | .modsub d a b m => .ofBig dr d (modSub (o.b a) (o.b b) (o.b m))
  | .modmul d a b m => .ofBig dr d (modMul (o.b a) (o.b b) (o.b m))
  | .montmul d a b m => .ofBig dr d (montMul (o.b a) (o.b b) (o.b m))
  | .modred d a m => .ofBig dr d (modRed (o.b a) (o.b m))
  | .modinv d a m => .ofBig dr d (modInv (o.b a) (o.b m))
  | .modexp d base exp m => .ofBig dr d (modExp (o.b base) (o.b exp) (o.b m))
  | .ecadd d p q => .ofPoint dr d (pointAdd o.cfg (o.p p) (o.p q))
  | .ecdbl d p => .ofPoint dr d (pointDouble o.cfg (o.p p))
  | .ecmul d k p => .ofPoint dr d (pointMul o.cfg (o.b k) (o.p p))
  | .ecchk p => .ofBool dr (pointCheck o.cfg (o.p p))
  | .ecdsaKeygen priv pub => .ecdsaKeygen dr o.cfg priv pub
  | .ecdsaSign r sg h priv => .ecdsaSign dr o r sg h priv
  | .ecdsaVerify h r sg pub => .ofBool dr (ecdsaVerify o.cfg (o.b h) (o.b r) (o.b sg) (o.p pub))
  | .rsaKeygen n d => .rsaKeygen par dr n d
  | .rsaSign sig h d n => .ofBig dr sig (rsaSignature (o.b h) (o.b d) (o.b n))
  | .rsaVerify strip h sig n => .ofBool dr (rsaVerify strip (o.b h) (o.b sig) (o.b n))

/-! The model's completions in this form. -/

theorem completeBig_eq_applyTo (s : State) (d : BReg) (e : Except ErrCode Nat) :
    s.completeBig d e = (Completion.ofBig s.draws d e).applyTo s := by
  cases e <;> rfl

theorem completePoint_eq_applyTo (s : State) (d : PReg) (e : Except ErrCode Point) :
    s.completePoint d e = (Completion.ofPoint s.draws d e).applyTo s := by
  cases e <;> rfl

theorem completeBool_eq_applyTo (s : State) (e : Except ErrCode Bool) :
    s.completeBool e = (Completion.ofBool s.draws e).applyTo s := by
  cases e <;> rfl

theorem withOperands_congr {i : Instr} {s : State} {k k' : State → Snapshot → State} (h : ∀ s o, k s o = k' s o) :
    withOperands i s k = withOperands i s k' :=
  congrArg Host.Outcome.next (h _ _)

theorem execEcdsaKeygen_eq_applyTo (priv : BReg) (pub : PReg) (s : State) :
    execEcdsaKeygen priv pub s = withOperands (.ecdsaKeygen priv pub) s fun s o =>
      (Completion.ecdsaKeygen s.draws o.cfg priv pub).applyTo s := by
  refine withOperands_congr fun s o => ?_
  unfold Completion.ecdsaKeygen
  split_ifs
  · dsimp only
    cases keygenPoint o.cfg (drawRng 1 o.cfg.n s.draws).1 <;> rfl
  · rfl

theorem execEcdsaSign_eq_applyTo (r sg h priv : BReg) (s : State) :
    execEcdsaSign r sg h priv s = withOperands (.ecdsaSign r sg h priv) s fun s o =>
      (Completion.ecdsaSign s.draws o r sg h priv).applyTo s := by
  refine withOperands_congr fun s o => ?_
  unfold Completion.ecdsaSign
  split_ifs
  · rfl
  · rfl
  · dsimp only
    generalize signLoop o.cfg (o.b h) (o.b priv) o.signmax.toNat 0 s.draws = run
    obtain ⟨_ | sig, tries, draws⟩ := run <;> rfl
  · rfl

theorem execRsaKeygen_eq_applyTo (n d : BReg) (s : State) :
    execRsaKeygen n d s = withOperands (.rsaKeygen n d) s fun s _ =>
      (Completion.rsaKeygen s.par s.draws n d).applyTo s := by
  refine withOperands_congr fun s o => ?_
  unfold Completion.rsaKeygen
  split_ifs
  · rfl
  · dsimp only
    cases (rsaGenerate s.par s.draws).1 <;> rfl

/-- The meaning of every command: its completion, on its operands, in the state. -/
theorem exec_eq_withOperands (i : Instr) (s : State) :
    exec i s = withOperands i s fun s o => (completionOf i s.par s.draws o).applyTo s := by
  cases i with
  | nop => rfl
  | modadd | modsub | modmul | montmul | modred | modinv | modexp | rsaSign =>
    exact withOperands_congr fun s _ => completeBig_eq_applyTo s _ _
  | ecadd | ecdbl | ecmul => exact withOperands_congr fun s _ => completePoint_eq_applyTo s _ _
  | ecchk | ecdsaVerify | rsaVerify => exact withOperands_congr fun s _ => completeBool_eq_applyTo s _
  | ecdsaKeygen priv pub => exact execEcdsaKeygen_eq_applyTo priv pub s
  | ecdsaSign r sg h priv => exact execEcdsaSign_eq_applyTo r sg h priv s
  | rsaKeygen n d => exact execRsaKeygen_eq_applyTo n d s

theorem exec_eq_next (i : Instr) (s : State) :
    exec i s = .next
      ((completionOf i (s.prepared i).par (s.prepared i).draws (s.values i)).applyTo (s.prepared i)) :=
  exec_eq_withOperands i s

theorem exec_next_iff {i : Instr} {s t : State} :
    exec i s = .next t ↔
      t = (completionOf i (s.prepared i).par (s.prepared i).draws (s.values i)).applyTo (s.prepared i) := by
  rw [exec_eq_withOperands, Laws.withOperands_next_iff]

/-! Which commands answer a boolean (R40) or write TRIES (R39). -/

/-- RESULT is set by a boolean command only, and without an error; TRIES is written by ECDSA_SIGN only. -/
structure Completion.Respects (c : Completion) (o : Opcode) : Prop where
  result : c.result = true → c.code = .none ∧ answersBoolean o = true
  tries : o ≠ .ecdsaSign → c.tries = none

theorem ofBig_respects (dr : Draws) (d : BReg) (e : Except ErrCode Nat) (o : Opcode) :
    (Completion.ofBig dr d e).Respects o := by
  cases e <;> exact ⟨nofun, fun _ => rfl⟩

theorem ofPoint_respects (dr : Draws) (d : PReg) (e : Except ErrCode Point) (o : Opcode) :
    (Completion.ofPoint dr d e).Respects o := by
  cases e <;> exact ⟨nofun, fun _ => rfl⟩

theorem ofBool_respects (dr : Draws) (e : Except ErrCode Bool) {o : Opcode} (h : answersBoolean o = true) :
    (Completion.ofBool dr e).Respects o := by
  cases e with
  | ok b => exact ⟨fun _ => ⟨rfl, h⟩, fun _ => rfl⟩
  | error code => exact ⟨nofun, fun _ => rfl⟩

theorem ecdsaKeygen_respects (dr : Draws) (c : CurveCfg) (priv : BReg) (pub : PReg) (o : Opcode) :
    (Completion.ecdsaKeygen dr c priv pub).Respects o := by
  unfold Completion.ecdsaKeygen
  repeat' split
  all_goals exact ⟨nofun, fun _ => rfl⟩

theorem ecdsaSign_respects (dr : Draws) (o : Snapshot) (r sg h priv : BReg) :
    (Completion.ecdsaSign dr o r sg h priv).Respects .ecdsaSign := by
  unfold Completion.ecdsaSign Completion.ofSignRun
  repeat' split
  all_goals exact ⟨nofun, fun h => absurd rfl h⟩

theorem rsaKeygen_respects (par : Params) (dr : Draws) (n d : BReg) (o : Opcode) :
    (Completion.rsaKeygen par dr n d).Respects o := by
  unfold Completion.rsaKeygen
  repeat' split
  all_goals exact ⟨nofun, fun _ => rfl⟩

theorem completionOf_respects (i : Instr) (par : Params) (dr : Draws) (o : Snapshot) :
    (completionOf i par dr o).Respects (opcode i) := by
  cases i with
  | nop => exact ⟨nofun, fun _ => rfl⟩
  | modadd | modsub | modmul | montmul | modred | modinv | modexp | rsaSign => exact ofBig_respects _ _ _ _
  | ecadd | ecdbl | ecmul => exact ofPoint_respects _ _ _ _
  | ecchk | ecdsaVerify | rsaVerify => exact ofBool_respects _ _ rfl
  | ecdsaKeygen priv pub => exact ecdsaKeygen_respects _ _ _ _ _
  | ecdsaSign r sg h priv => exact ecdsaSign_respects _ _ _ _ _ _
  | rsaKeygen n d => exact rsaKeygen_respects _ _ _ _ _

/-! What the completion of a word leaves and changes. -/

theorem sameOthers_trans {s t u : State} (h : SameOthers s t) (k : SameOthers t u) : SameOthers s u :=
  ⟨k.par.trans h.par, k.cfg.trans h.cfg, k.ie.trans h.ie, k.lock.trans h.lock, k.cmdovr.trans h.cmdovr,
    k.wrdrop.trans h.wrdrop, k.cmd.trans h.cmd, k.signmax.trans h.signmax, k.resetLine.trans h.resetLine,
    k.inputs.trans h.inputs, k.resp.trans h.resp⟩

theorem applyTo_sameOthers (c : Completion) (s : State) : SameOthers s (c.applyTo s) :=
  ⟨rfl, rfl, rfl, rfl, rfl, rfl, rfl, rfl, rfl, rfl, rfl⟩

theorem prepared_sameOthers (s : State) (i : Instr) : SameOthers s (s.prepared i) := by
  unfold State.prepared
  split <;> exact ⟨rfl, rfl, rfl, rfl, rfl, rfl, rfl, rfl, rfl, rfl, rfl⟩

@[simp] theorem prepared_big (s : State) (i : Instr) : (s.prepared i).big = s.big := by
  rw [(Laws.prepared_eq s i).1]

@[simp] theorem prepared_pt (s : State) (i : Instr) : (s.prepared i).pt = s.pt := by
  rw [(Laws.prepared_eq s i).1]

@[simp] theorem prepared_tries (s : State) (i : Instr) : (s.prepared i).tries = s.tries := by
  rw [(Laws.prepared_eq s i).1]

@[simp] theorem prepared_par (s : State) (i : Instr) : (s.prepared i).par = s.par := (prepared_sameOthers s i).par

/-- What the completion of the word w, from s, has done in t (R29, R39, R40). -/
structure WordCompleted (w : Word) (s t : State) : Prop extends SameOthers s t where
  done : t.done = true
  phase : t.phase = .idle
  result : t.result = true → t.err = .none ∧ ∃ i, decode w = .cmd i ∧ answersBoolean (opcode i) = true
  tries : t.tries ≠ s.tries → ∃ i, decode w = .cmd i ∧ opcode i = .ecdsaSign

theorem completeError_wordCompleted (w : Word) (s : State) (code : ErrCode) :
    WordCompleted w s (s.completeError code) where
  toSameOthers := (Laws.finish_sameElse s code false).toSameOthers
  done := rfl
  phase := rfl
  result := nofun
  tries h := absurd rfl h

theorem exec_wordCompleted {w : Word} {i : Instr} {s t : State} (hw : decode w = .cmd i) (h : exec i s = .next t) :
    WordCompleted w s t := by
  have hr := completionOf_respects i (s.prepared i).par (s.prepared i).draws (s.values i)
  rw [exec_next_iff] at h
  generalize completionOf i (s.prepared i).par (s.prepared i).draws (s.values i) = c at h hr
  subst h
  refine ⟨sameOthers_trans (prepared_sameOthers s i) (applyTo_sameOthers c _), rfl, rfl, fun h => ?_, fun h => ?_⟩
  · obtain ⟨hc, hb⟩ := hr.result h
    exact ⟨hc, i, hw, hb⟩
  · refine ⟨i, hw, by_contra fun hop => h ?_⟩
    simp [Completion.applyTo, hr.tries hop]

theorem completeWord_wordCompleted {w : Word} {s t : State} (h : completeWord w s = .next t) : WordCompleted w s t := by
  unfold completeWord at h
  split at h
  · cases h; exact completeError_wordCompleted _ _ _
  · cases h; exact completeError_wordCompleted _ _ _
  · next i hw => exact exec_wordCompleted hw h

/-- Every word completes: no completion faults or is refused. -/
theorem completeWord_total (w : Word) (s : State) : ∃ t, completeWord w s = .next t := by
  unfold completeWord
  split
  · exact ⟨_, rfl⟩
  · exact ⟨_, rfl⟩
  · next i _ => exact ⟨_, exec_eq_next i s⟩

end Sys2Proof.Proofs
end

section
/-! The five things that a step can do, and the cases of a host write. -/

namespace Sys2Proof.Proofs

open Sys2Proof.Machine

/-- What a host write of a word does (R33 to R39, R66 to R68), `t` its result. -/
inductive WriteEffect (s : State) (slot : Slot) (v : Word) (t : State) : Prop where
  | dropped (hdrop : s.drops slot = true) (ht : t = { s with wrdrop := true })
  | stored (hdata : slot.isData = true) (hdrop : s.drops slot = false) (ht : t = s.storeSlot v slot)
  | ctrl (hslot : slot = .ctrl) (ht : t = s.writeCtrl v)
  | status (hslot : slot = .status) (ht : t = s.clearStatus v)
  | overrun (hslot : slot = .cmd) (hbusy : s.busy = true) (ht : t = { s with cmdovr := true })
  | accepted (hslot : slot = .cmd) (hidle : s.busy = false) (ht : t = s.accept v)
  | ignored (ht : t = s)

theorem writeCmd_busy {s : State} (h : s.busy = true) (v : Word) : s.writeCmd v = { s with cmdovr := true } := by
  simp [State.writeCmd, h]

theorem writeCmd_idle {s : State} (h : s.busy = false) (v : Word) : s.writeCmd v = s.accept v := by
  simp [State.writeCmd, h]

theorem writeSlot_drops {s : State} {slot : Slot} (h : s.drops slot = true) (v : Word) :
    s.writeSlot slot v = { s with wrdrop := true } := by
  simp [State.writeSlot, h]

theorem writeSlot_keeps {s : State} {slot : Slot} (h : s.drops slot = false) (v : Word) :
    s.writeSlot slot v = s.storeSlot v slot := by
  simp [State.writeSlot, h]

theorem drops_of_not_isData (s : State) {slot : Slot} (h : slot.isData = false) : s.drops slot = false := by
  simp [State.drops, h]

theorem writeSlot_effect (s : State) (slot : Slot) (v : Word) : WriteEffect s slot v (s.writeSlot slot v) := by
  cases hdrop : s.drops slot with
  | true => exact .dropped hdrop (writeSlot_drops hdrop v)
  | false =>
    rw [writeSlot_keeps hdrop]
    cases slot with
    | ctrl => exact .ctrl rfl rfl
    | status => exact .status rfl rfl
    | cmd =>
      cases hb : s.busy with
      | true => exact .overrun rfl hb (writeCmd_busy hb v)
      | false => exact .accepted rfl hb (writeCmd_idle hb v)
    | id | param | errcode | tries | reserved => exact .ignored rfl
    | signmax | cfgWord | bigWord | infWord | xWord | yWord => exact .stored rfl hdrop rfl

/-- A store to a data register changes registers, the configuration and SIGNMAX only (R66). -/
theorem storeSlot_of_isData (s : State) (v : Word) {slot : Slot} (h : slot.isData = true) :
    s.storeSlot v slot = { s with
      big := (s.storeSlot v slot).big, pt := (s.storeSlot v slot).pt, cfg := (s.storeSlot v slot).cfg,
      signmax := (s.storeSlot v slot).signmax } := by
  cases slot with
  | signmax | cfgWord | bigWord | infWord | xWord | yWord => rfl
  | id | param | ctrl | status | cmd | errcode | tries | reserved => cases h

/-- The data registers other than the configuration leave it (R66). -/
theorem storeSlot_cfg_of_not_isCfg (s : State) (v : Word) {slot : Slot} (hd : slot.isData = true)
    (hc : slot.isCfg = false) : (s.storeSlot v slot).cfg = s.cfg := by
  cases slot with
  | signmax | bigWord | infWord | xWord | yWord => rfl
  | cfgWord => cases hc
  | id | param | ctrl | status | cmd | errcode | tries | reserved => cases hd

/-- What a step from `s` to `t` did (R284): nothing to the block; a host write of a word; the completion of the running
command; a change of the reset line. -/
inductive StepEffect (s t : State) : Prop where
  | quiet (ht : SameBlock s t)
  | hostWrite (addr : Nat) (v : Word) (rest : List Input) (hin : s.inputs = .write addr 4 v :: rest)
      (htaken : s.turnedAway addr 4 = none)
      (ht : t = { s.writeSlot (slotAt s.par (addr - s.par.wbase)) v with inputs := rest, resp := .ack })
  | completion (w : Word) (snap : Snapshot) (inputs : List Input) (hphase : s.phase = .busy w snap)
      (ht : completeWord w { s with inputs := inputs } = .next t)
  | resetAsserted (rest : List Input) (hin : s.inputs = .resetAssert :: rest)
      (ht : t = { s with inputs := rest }.assertReset)
  | resetReleased (rest : List Input) (hin : s.inputs = .resetRelease :: rest)
      (ht : t = { s with inputs := rest }.releaseReset)

theorem sequencerTurn_effect {s t : State} {inputs : List Input}
    (h : sequencerTurn { s with inputs := inputs } = .next t) : StepEffect s t := by
  unfold sequencerTurn at h
  split at h
  · cases h; exact .quiet rfl
  · next w snap hp => exact .completion w snap inputs hp h

theorem hostWrite_effect (s : State) {addr size : Nat} {v : Word} {rest : List Input}
    (hin : s.inputs = .write addr size v :: rest) :
    StepEffect s ({ s with inputs := rest }.hostWrite addr size v) := by
  cases ha : s.turnedAway addr size with
  | some r =>
    rw [Laws.hostWrite_turnedAway (s := { s with inputs := rest }) ha]
    exact .quiet rfl
  | none =>
    obtain ⟨-, -, rfl, -⟩ := (Laws.turnedAway_eq_none_iff s addr size).mp ha
    refine .hostWrite addr v rest hin ha ?_
    rw [Laws.hostWrite_taken (s := { s with inputs := rest }) ha, Laws.writeSlot_withInputs]

theorem step_effect {s t : State} (h : step s = .next t) : StepEffect s t := by
  obtain ⟨-, h⟩ | ⟨e, rest, hin, h⟩ := Laws.step_cases h
  · exact sequencerTurn_effect (inputs := s.inputs) h
  · obtain ⟨addr, size, -, rfl⟩ | ⟨addr, size, v, rfl, rfl⟩ | ⟨-, h⟩ | ⟨rfl, rfl⟩ | ⟨rfl, rfl⟩ := h
    · exact .quiet (Laws.hostRead_sameBlock { s with inputs := rest } addr size)
    · exact hostWrite_effect s hin
    · exact sequencerTurn_effect h
    · exact .resetAsserted rest hin rfl
    · exact .resetReleased rest hin rfl

theorem sequencerTurn_total (s : State) : ∃ t, sequencerTurn s = .next t := by
  unfold sequencerTurn
  split
  · exact ⟨_, rfl⟩
  · next w _ _ => exact completeWord_total w s

/-- No step faults or is refused. -/
theorem step_total (s : State) : ∃ t, step s = .next t := by
  cases hin : s.inputs with
  | nil => rw [Laws.step_of_no_inputs hin]; exact sequencerTurn_total s
  | cons e rest =>
    rw [Laws.step_of_input hin]
    cases e with
    | complete => exact sequencerTurn_total _
    | read | write | resetAssert | resetRelease => exact ⟨_, rfl⟩

end Sys2Proof.Proofs
end

section
/-! What a step does to the parameters, TRIES, LOCK, IRQ, ERRCODE and RESULT. -/

namespace Sys2Proof.Proofs

open Sys2Proof.Machine

theorem step_par {s t : State} (h : step s = .next t) : t.par = s.par := by
  cases step_effect h with
  | quiet ht => rw [ht]
  | hostWrite addr v rest hin htaken ht => rw [ht]; exact (Laws.writeSlot_env s _ v).1
  | completion w snap inputs hphase ht => exact (completeWord_wordCompleted ht).par
  | resetAsserted rest hin ht | resetReleased rest hin ht => rw [ht]; rfl

/-- Settles O13: ID is constant, PARAM is a function of the parameters, and no step changes those. -/
theorem idAndParamNeverChange : Obligations.IdAndParamNeverChange := by
  intro s t h
  refine ⟨rfl, ?_, step_par h⟩
  simp [State.readSlot, State.paramWord, step_par h]

/-- Settles O17: of the completions only those of the three boolean commands set RESULT. -/
theorem resultOnlyFromBooleanCommands : Obligations.ResultOnlyFromBooleanCommands :=
  fun _ _ _ h hr => (completeWord_wordCompleted h).result hr

/-- Settles O19, by the five effects of a step. -/
theorem triesChangesOnlyBySigning : Obligations.TriesChangesOnlyBySigning := by
  intro s t h hne
  cases step_effect h with
  | quiet ht => rw [ht] at hne; exact absurd rfl hne
  | hostWrite addr v rest hin htaken ht => rw [ht] at hne; exact absurd (Laws.writeSlot_tries s _ v) hne
  | completion w snap inputs hphase ht =>
    have hc := completeWord_wordCompleted ht
    obtain ⟨i, hw, hi⟩ := hc.tries hne
    exact .inr ⟨w, snap, i, hphase, hw, hi, hc.phase, hc.done⟩
  | resetAsserted rest hin ht => exact .inl ⟨rest, hin⟩
  | resetReleased rest hin ht => rw [ht] at hne; exact absurd rfl hne

/-- A host write leaves LOCK set and, while it is, drops every write of the configuration (R33, R68). -/
theorem writeSlot_of_lock {s : State} (hl : s.lock = true) (slot : Slot) (v : Word) :
    (s.writeSlot slot v).lock = true ∧ (s.writeSlot slot v).cfg = s.cfg := by
  cases writeSlot_effect s slot v with
  | stored hdata hdrop ht =>
    have hcfg : slot.isCfg = false := by simp_all [State.drops]
    rw [ht, storeSlot_of_isData s v hdata]
    exact ⟨hl, storeSlot_cfg_of_not_isCfg s v hdata hcfg⟩
  | ctrl hslot ht => rw [ht]; simp [State.writeCtrl, hl]
  | dropped _ ht | status _ ht | overrun _ _ ht | accepted _ _ ht | ignored ht => rw [ht]; exact ⟨hl, rfl⟩

/-- Settles O56, by the five effects of a step. -/
theorem lockHoldsUntilReset : Obligations.LockHoldsUntilReset := by
  intro s t h hl hreset
  cases step_effect h with
  | quiet ht => rw [ht]; exact ⟨hl, rfl⟩
  | hostWrite addr v rest hin htaken ht => rw [ht]; exact writeSlot_of_lock hl _ v
  | completion w snap inputs hphase ht =>
    have hc := completeWord_wordCompleted ht
    exact ⟨hc.lock.trans hl, hc.cfg⟩
  | resetAsserted rest hin ht => exact absurd ⟨rest, hin⟩ hreset
  | resetReleased rest hin ht => rw [ht]; exact ⟨hl, rfl⟩

/-- A host write that makes IRQ rise is one of CTRL, with DONE set and IE clear (R250). -/
theorem writeSlot_irq_rises {s : State} {slot : Slot} {v : Word} (h0 : s.irq = false)
    (h1 : (s.writeSlot slot v).irq = true) : s.done = true ∧ s.ie = false ∧ slot = .ctrl := by
  cases writeSlot_effect s slot v with
  | ctrl hslot ht =>
    have hdone : s.done = true := by simp_all [State.irq]
    exact ⟨hdone, by simpa [State.irq, hdone] using h0, hslot⟩
  | stored hdata hdrop ht => rw [ht, storeSlot_of_isData s v hdata] at h1; exact absurd h1 (Bool.eq_false_iff.mp h0)
  | dropped _ ht | overrun _ _ ht | ignored ht => rw [ht] at h1; exact absurd h1 (Bool.eq_false_iff.mp h0)
  | status _ ht => rw [ht] at h1; simp_all [State.irq]
  | accepted _ _ ht => rw [ht] at h1; simp [State.irq] at h1

/-- Settles O57, by the five effects of a step. -/
theorem irqRisesOnlyByCompletion : Obligations.IrqRisesOnlyByCompletion := by
  intro s t h h0 h1
  cases step_effect h with
  | quiet ht => rw [ht] at h1; exact absurd h1 (Bool.eq_false_iff.mp h0)
  | hostWrite addr v rest hin htaken ht =>
    rw [ht] at h1
    obtain ⟨hdone, hie, hslot⟩ := writeSlot_irq_rises h0 h1
    exact .inr ⟨hdone, hie, addr, v, rest, hin, hslot⟩
  | completion w snap inputs hphase ht =>
    have hc := completeWord_wordCompleted ht
    have hie : t.ie = true := (Bool.and_eq_true_iff.mp h1).1
    exact .inl ⟨(Laws.busy_eq_true_iff s).mpr ⟨w, snap, hphase⟩, (Laws.busy_eq_false_iff t).mpr hc.phase,
      hc.ie.symm.trans hie⟩
  | resetAsserted rest hin ht => rw [ht] at h1; cases h1
  | resetReleased rest hin ht => rw [ht] at h1; exact absurd h1 (Bool.eq_false_iff.mp h0)

/-- A host write that accepts no command leaves ERRCODE and RESULT (R248). -/
theorem writeSlot_err_result {s : State} {slot : Slot} {v : Word} (h : (s.writeSlot slot v).phase = .idle) :
    (s.writeSlot slot v).err = s.err ∧ (s.writeSlot slot v).result = s.result := by
  cases writeSlot_effect s slot v with
  | accepted _ _ ht => rw [ht] at h; cases h
  | stored hdata hdrop ht => rw [ht, storeSlot_of_isData s v hdata]; exact ⟨rfl, rfl⟩
  | dropped _ ht | ctrl _ ht | status _ ht | overrun _ _ ht | ignored ht => rw [ht]; exact ⟨rfl, rfl⟩

theorem step_err_result_of_idle {s t : State} (h : step s = .next t) (hs : s.phase = .idle) (ht : t.phase = .idle)
    (hreset : ¬ ∃ rest, s.inputs = .resetAssert :: rest) : t.err = s.err ∧ t.result = s.result := by
  cases step_effect h with
  | quiet he => rw [he]; exact ⟨rfl, rfl⟩
  | hostWrite addr v rest hin htaken he => rw [he] at ht ⊢; exact writeSlot_err_result ht
  | completion w snap inputs hphase he => rw [hs] at hphase; cases hphase
  | resetAsserted rest hin he => exact absurd ⟨rest, hin⟩ hreset
  | resetReleased rest hin he => rw [he]; exact ⟨rfl, rfl⟩

/-- The error codes in the order of their numbers (R241). -/
def errCodes : List ErrCode :=
  [.none, .illegalOpcode, .reservedField, .destAlias, .badConfig, .badModulus, .operandRange, .notInvertible,
    .primeGenFail, .expNotInvertible, .retryExhausted]

/-- The ERRCODE word tells the code. -/
theorem errCodes_errWord (c : ErrCode) : errCodes[((errNumber c).setWidth 32).toNat]? = some c := by
  cases c <;> rfl

theorem err_eq_iff_errWord (s : State) (c : ErrCode) : s.err = c ↔ s.errWord = (errNumber c).setWidth 32 := by
  refine ⟨fun h => by rw [State.errWord, h], fun h => Option.some.inj ?_⟩
  rw [← errCodes_errWord s.err, ← errCodes_errWord c, ← h]
  rfl

/-- A read of a specified word is a step that answers it and does nothing else (R69). -/
theorem step_read_some {s : State} {addr : Nat} {rest : List Input} {w : Word} (ha : s.turnedAway addr 4 = none)
    (hin : s.inputs = .read addr 4 :: rest) (hw : s.readSlot (slotAt s.par (addr - s.par.wbase)) = some w) :
    step s = .next { s with inputs := rest, resp := .data w } := by
  rw [Laws.step_of_input hin]
  exact congrArg Host.Outcome.next (Laws.hostRead_some (s := { s with inputs := rest }) ha hw)

/-- Settles O60: the codes by their list, the counts by zero extension, and the two registers by the effects of a step. -/
theorem codeAndCountReads : Obligations.CodeAndCountReads := by
  refine ⟨fun s t => step_err_result_of_idle, fun s => ⟨rfl, ⟨_, rfl, ?_⟩, ⟨_, rfl, ?_⟩, ⟨_, rfl, ?_⟩, ?_⟩⟩
  · exact BitVec.toNat_setWidth_of_le (by decide)
  · exact BitVec.toNat_setWidth_of_le (by decide)
  · have code := err_eq_iff_errWord s
    exact ⟨code .none, code .illegalOpcode, code .reservedField, code .destAlias, code .badConfig, code .badModulus,
      code .operandRange, code .notInvertible, code .primeGenFail, code .expNotInvertible, code .retryExhausted⟩
  · rintro addr rest slot w ha hin rfl - hw
    exact step_read_some ha hin hw

end Sys2Proof.Proofs
end

section
/-! What a step runs, and what a read of a word answers. -/

namespace Sys2Proof.Proofs

open Sys2Proof.Machine

theorem step_of_complete {s : State} {rest : List Input} (h : s.inputs = .complete :: rest) :
    step s = sequencerTurn { s with inputs := rest } :=
  Laws.step_of_input h

/-- Settles O7, by the three answers of the decoder. -/
theorem stepRunsTheDecodedCommand : Obligations.StepRunsTheDecodedCommand := by
  intro s w snap hp
  refine ⟨fun i hd => ⟨Laws.operands_busy hp, fun hin => ?_, fun rest hin => ?_⟩,
    fun hd => ⟨fun hin => ?_, fun rest hin => ?_⟩, fun o hd => ⟨fun hin => ?_, fun rest hin => ?_⟩⟩
  · rw [Laws.step_of_no_inputs hin, Laws.sequencerTurn_cmd hp hd]
  · rw [step_of_complete hin, Laws.sequencerTurn_cmd (s := { s with inputs := rest }) hp hd]
  · rw [Laws.step_of_no_inputs hin, Laws.sequencerTurn_illegal hp hd]
  · rw [step_of_complete hin, Laws.sequencerTurn_illegal (s := { s with inputs := rest }) hp hd]
  · rw [Laws.step_of_no_inputs hin, Laws.sequencerTurn_reserved hp hd]
  · rw [step_of_complete hin, Laws.sequencerTurn_reserved (s := { s with inputs := rest }) hp hd]

theorem withFetchWord_toNat (s : State) (w : Word) : s.withFetchWord 32 w.toNat = placeCommand s w := by
  rw [State.withFetchWord, Nat.mod_eq_of_lt w.isLt, BitVec.ofNat_toNat, BitVec.setWidth_eq]

/-- Settles O8: the placed word is BUSY with its completion in front of the inputs. -/
theorem placedWordRunsNext : Obligations.PlacedWordRunsNext := by
  intro s w i hd
  rw [withFetchWord_toNat, step_of_complete rfl]
  exact Laws.sequencerTurn_cmd (s := { s.accept w with resetLine := false }) rfl hd

theorem toNat_wordOf (v k : Nat) : (wordOf v k).toNat = v / 2 ^ (32 * k) % 2 ^ 32 := BitVec.toNat_ofNat _ _

theorem dataWord_eq_none_iff (s : State) (written : Bool) (w : Word) :
    s.dataWord written w = none ↔ s.busy = true ∨ written = false := by
  simp [State.dataWord, or_iff_not_imp_left]

theorem eq_of_dataWord_eq_some {s : State} {written : Bool} {v w : Word} (h : s.dataWord written v = some w) : w = v := by
  unfold State.dataWord at h
  split at h
  · cases h
  · exact (Option.some.inj h).symm

/-- A word of a value as a data register reads it (R21, R69). -/
theorem toNat_of_dataWord {s : State} {written : Bool} {v k : Nat} {w : Word}
    (h : s.dataWord written (wordOf v k) = some w) : w.toNat = v / 2 ^ (32 * k) % 2 ^ 32 := by
  rw [eq_of_dataWord_eq_some h, toNat_wordOf]

/-- Settles O53: a legal read is `hostRead`, whose answer is the word, or a free value in the word's open bits. -/
theorem readsHaveNoSideEffect : Obligations.ReadsHaveNoSideEffect := by
  refine ⟨fun s addr rest ha hin => ?_, fun s k w => ⟨fun i => ⟨dataWord_eq_none_iff _ _ _, toNat_of_dataWord⟩,
    fun j => ⟨dataWord_eq_none_iff _ _ _, eq_of_dataWord_eq_some⟩,
    fun j => ⟨dataWord_eq_none_iff _ _ _, toNat_of_dataWord⟩, fun j => ⟨dataWord_eq_none_iff _ _ _, toNat_of_dataWord⟩,
    ?_⟩⟩
  · refine ⟨_, Laws.step_of_input hin, Laws.hostRead_sameBlock { s with inputs := rest } addr 4,
      Laws.hostRead_inputs { s with inputs := rest } addr 4, fun w hw => ?_, fun hw => ?_⟩
    · rw [Laws.hostRead_some (s := { s with inputs := rest }) ha hw]
      exact ⟨rfl, rfl⟩
    · rw [Laws.hostRead_none (s := { s with inputs := rest }) ha hw]
      refine ⟨rfl, fun hslot => ?_, fun j hslot => ?_⟩
      · exact congrArg BusResp.data (Laws.freeRead_of_ne_infWord hslot _)
      · exact congrArg (fun slot : Slot => BusResp.data (slot.freeRead s.draws.free)) hslot
  · simp only [List.forall_mem_cons]
    exact ⟨⟨_, rfl, toNat_wordOf _ _⟩, ⟨_, rfl, toNat_wordOf _ _⟩, ⟨_, rfl, toNat_wordOf _ _⟩,
      ⟨_, rfl, toNat_wordOf _ _⟩, ⟨_, rfl, toNat_wordOf _ _⟩, ⟨_, rfl, toNat_wordOf _ _⟩, nofun⟩

theorem getLsbD_flagBit (b : Bool) {k : Nat} (hk : k < 32) (n : Nat) :
    (flagBit b k).getLsbD n = (decide (n = k) && b) := by
  cases b <;> simp [flagBit, BitVec.getLsbD_twoPow, hk, eq_comm]

theorem errFlag_eq (s : State) : s.errFlag = decide (s.err ≠ .none) := by
  unfold State.errFlag
  cases s.err <;> rfl

/-- Settles O55: each flag is one bit of its word, and neither register's writes are ever dropped. -/
theorem statusAndCtrlBits : Obligations.StatusAndCtrlBits := by
  refine fun s v => ⟨⟨_, rfl, fun n => ?_⟩, ⟨_, rfl, fun n => ?_⟩, writeSlot_keeps (drops_of_not_isData s rfl) v,
    writeSlot_keeps (drops_of_not_isData s rfl) v⟩
  · simp (disch := decide) only [State.statusWord, BitVec.getLsbD_or, getLsbD_flagBit, errFlag_eq]
  · simp (disch := decide) only [State.ctrlWord, BitVec.getLsbD_or, getLsbD_flagBit]

end Sys2Proof.Proofs
end

section
/-! Commands that need unwritten words: the model fault, and the completion on free values (log 7). -/

namespace Sys2Proof.Proofs

open Sys2Proof.Machine

theorem modelStep_eq_fault_iff {s : State} {i : Instr} :
    modelStep s = .fault (.unwrittenOperand i) ↔ s.modelFault = some i := by
  cases hf : s.modelFault with
  | none =>
    obtain ⟨t, ht⟩ := step_total s
    simp [Laws.modelStep_of_no_fault hf, ht, asModelOutcome]
  | some j => simp [Laws.modelStep_of_fault hf]

/-- The model fault, as R245 and R273 say when it is taken. -/
theorem modelStep_fault_iff_unwritten (s : State) (i : Instr) :
    modelStep s = .fault (.unwrittenOperand i) ↔
      ∃ w snap, s.phase = .busy w snap ∧ decode w = .cmd i ∧ (s.inputs = [] ∨ ∃ rest, s.inputs = .complete :: rest) ∧
        operandsWritten s.par snap i = false := by
  rw [modelStep_eq_fault_iff, Laws.modelFault_eq_some]
  constructor
  · rintro ⟨⟨w, snap, hp, hd⟩, hin, ho⟩
    exact ⟨w, snap, hp, hd, hin, Laws.operands_busy hp ▸ ho⟩
  · rintro ⟨w, snap, hp, hd, hin, ho⟩
    exact ⟨⟨w, snap, hp, hd⟩, hin, (Laws.operands_busy hp).symm ▸ ho⟩

theorem modelStep_faults_or_steps (s : State) :
    (∃ i, modelStep s = .fault (.unwrittenOperand i)) ∨ ∃ t, modelStep s = .next t ∧ step s = .next t := by
  cases hf : s.modelFault with
  | none =>
    obtain ⟨t, ht⟩ := step_total s
    exact .inr ⟨t, Laws.modelStep_eq_next.mpr ⟨hf, ht⟩, ht⟩
  | some i => exact .inl ⟨i, Laws.modelStep_of_fault hf⟩

theorem neededWritten_iff (par : Params) (r : PointReg) :
    r.neededWritten par = true ↔ r.infWritten = true ∧
      (r.inf = false → ∀ k < par.words, r.x.written.getLsbD k = true ∧ r.y.written.getLsbD k = true) := by
  cases hinf : r.inf with
  | true => simp [PointReg.neededWritten, hinf]
  | false => simp [PointReg.neededWritten, hinf, Laws.allWritten_iff, forall_and]

/-- The words a command needs (R22). -/
theorem operandsWritten_iff (par : Params) (o : Snapshot) (i : Instr) :
    operandsWritten par o i = true ↔
      (∀ r ∈ bigSources i, ∀ k < par.words, o.big[r].written.getLsbD k = true) ∧
      (∀ r ∈ pointSources i, o.pt[r].infWritten = true ∧
        (o.pt[r].inf = false → ∀ k < par.words,
          o.pt[r].x.written.getLsbD k = true ∧ o.pt[r].y.written.getLsbD k = true)) := by
  simp only [operandsWritten, Bool.and_eq_true, List.all_eq_true, Laws.allWritten_iff, neededWritten_iff]

theorem exec_completes (i : Instr) (s : State) :
    ∃ t, exec i s = .next t ∧ t.done = true ∧ t.phase = .idle ∧
      (operandsWritten s.par s.operands i = true → t.unwrittenOperand = s.unwrittenOperand) ∧
      (operandsWritten s.par s.operands i = false → t.unwrittenOperand = some (s.unwrittenOperand.getD i)) := by
  refine ⟨_, exec_eq_next i s, rfl, rfl, fun ho => ?_, fun ho => ?_⟩
  · show (s.prepared i).unwrittenOperand = _
    rw [Laws.prepared_of_written ho]
  · show (s.prepared i).unwrittenOperand = _
    rw [Laws.prepared_of_unwritten ho, Laws.noteUnwritten_unwrittenOperand]

/-- A completion leaves nothing of the phase it came from. -/
theorem applyTo_withPhase (c : Completion) (s : State) (p : Phase) : c.applyTo { s with phase := p } = c.applyTo s := rfl

/-- A command that needs an unwritten word runs as on the snapshot with its unwritten words filled (R22; log 7). -/
theorem exec_of_unwritten {i : Instr} {s : State} {w : Word} {snap : Snapshot} (hw : s.par.words ≤ 128)
    (hp : s.phase = .busy w snap) (ho : operandsWritten s.par snap i = false) :
    exec i s = exec i { s.noteUnwritten i with phase := .busy w (snap.filled s.par s.draws.free) } := by
  have hfilled := Laws.operandsWritten_filled hw s.draws.free snap i
  rw [exec_eq_withOperands, exec_eq_withOperands,
    Laws.withOperands_of_unwritten ((Laws.operands_busy hp).symm ▸ ho), Laws.operands_busy hp,
    Laws.withOperands_of_written (s := { s.noteUnwritten i with phase := .busy w (snap.filled s.par s.draws.free) })
      hfilled]
  exact congrArg Host.Outcome.next (applyTo_withPhase _ (s.noteUnwritten i) _).symm

/-- Word by word, in the terms of the claims, a filled register. -/
theorem div_mod_filled {par : Params} (free : Nat → Word) (r : BigReg) {k : Nat} (hk : k < par.words) :
    (r.filled par free).value / 2 ^ (32 * k) % 2 ^ 32 =
      if r.written.getLsbD k then r.value / 2 ^ (32 * k) % 2 ^ 32 else (free k).toNat := by
  rw [← toNat_wordOf, Laws.wordOf_filled par free r hk, apply_ite BitVec.toNat, toNat_wordOf]

/-- Settles O14: the model fault by `modelFault`, the completions by `exec_eq_withOperands`, the free words one by one. -/
theorem unwrittenOperandsAreFreeValues : Obligations.UnwrittenOperandsAreFreeValues := by
  refine ⟨fun s => ⟨modelStep_fault_iff_unwritten s, modelStep_faults_or_steps s⟩, fun i s hl =>
    ⟨operandsWritten_iff _ _ _, exec_completes i s, fun w snap hp ho => ?_⟩⟩
  have hw := Laws.legal_words_le hl
  refine ⟨exec_of_unwritten hw hp ho, Laws.operandsWritten_filled hw _ _ _, Laws.filled_cfg _ _ _,
    Laws.filled_signmax _ _ _, fun r k hk => ?_, fun r => ?_,
    fun r k hk => ?_⟩
  · rw [Laws.filled_big]
    exact div_mod_filled _ _ hk
  · rw [Laws.filled_pt]
    rfl
  · rw [Laws.filled_pt]
    exact ⟨div_mod_filled _ _ hk, div_mod_filled _ _ hk⟩

end Sys2Proof.Proofs
end

section
/-! Every result of a command is a natural below 2^OPW, and every point has its coordinates there (R21, R24). -/

namespace Sys2Proof.Proofs

open Sys2Proof.Machine

/-! The modular group: every result is below the modulus. -/

theorem powMod_lt (base exp : Nat) {m : Nat} (hm : 0 < m) : powMod base exp m < m := by
  rw [Laws.powMod_eq base exp hm]
  exact Nat.mod_lt _ hm

theorem modAdd_lt {a b m v : Nat} (h : modAdd a b m = .ok v) : v < m := by
  unfold modAdd at h
  split at h
  · next hm => cases h; exact Laws.emod_lt _ hm
  · cases h

theorem modSub_lt {a b m v : Nat} (h : modSub a b m = .ok v) : v < m := by
  unfold modSub at h
  split at h
  · next hm => cases h; exact Laws.emod_lt _ hm
  · cases h

theorem modMul_lt {a b m v : Nat} (h : modMul a b m = .ok v) : v < m := by
  unfold modMul at h
  split at h
  · next hm => cases h; exact Laws.emod_lt _ (Nat.zero_lt_of_lt hm.2)
  · cases h

theorem montMul_lt {a b m v : Nat} (h : montMul a b m = .ok v) : v < m := by
  unfold montMul at h
  split at h
  · cases h
  · next hm =>
    split at h
    · cases h
    · cases h; exact Laws.emod_lt _ (Nat.zero_lt_of_lt (not_not.mp hm).2)

theorem modRed_lt {a m v : Nat} (h : modRed a m = .ok v) : v < m := by
  unfold modRed at h
  split at h
  · next hm => cases h; exact Laws.emod_lt _ hm
  · cases h

theorem modInv_lt {a m v : Nat} (h : modInv a m = .ok v) : v < m := by
  unfold modInv at h
  split at h
  · next hm =>
    split at h
    · next x hx => cases h; exact (Laws.inv_eq_some hm hx).1
    · cases h
  · cases h

theorem modExp_lt {base exp m v : Nat} (h : modExp base exp m = .ok v) : v < m := by
  unfold modExp at h
  split at h
  · next hm => cases h; exact powMod_lt _ _ (Nat.zero_lt_of_lt hm.2)
  · cases h

theorem rsaSignature_lt {h d n v : Nat} (hs : rsaSignature h d n = .ok v) : v < n := by
  unfold rsaSignature at hs
  split at hs
  · cases hs
  · next hn =>
    split at hs
    · cases hs
    · cases hs; exact powMod_lt _ _ (Nat.zero_lt_of_lt (not_not.mp hn).2)

/-! The curve group: every result has its coordinates below p. -/

theorem good_p_pos {c : CurveCfg} (h : c.Good) : 0 < c.p := Nat.zero_lt_of_lt h.2.1

theorem good_one_lt_n {c : CurveCfg} (h : c.Good) : 1 < c.n := by
  obtain ⟨-, -, -, hn, -⟩ := h
  omega

theorem pointAdd_inRange {c : CurveCfg} {p q r : Point} (h : pointAdd c p q = .ok r) : r.inRange c.p = true := by
  unfold pointAdd at h
  split_ifs at h with hc hr
  exact Laws.ecAdd_inRange (good_p_pos hc) hr.1 hr.2 h

theorem pointDouble_inRange {c : CurveCfg} {p r : Point} (h : pointDouble c p = .ok r) : r.inRange c.p = true := by
  unfold pointDouble at h
  split_ifs at h with hc hr
  exact Laws.ecDbl_inRange (good_p_pos hc) h

theorem pointMul_inRange {c : CurveCfg} {k : Nat} {p r : Point} (h : pointMul c k p = .ok r) :
    r.inRange c.p = true := by
  unfold pointMul at h
  split_ifs at h with hc hr
  exact Laws.ecMul_inRange (good_p_pos hc) hr h

theorem keygenPoint_inRange {c : CurveCfg} (hc : c.Good) {d : Nat} {q : Point} (h : keygenPoint c d = .ok q) :
    q.inRange c.p = true :=
  Laws.ecMul_inRange (good_p_pos hc) (Laws.g_inRange hc) h

theorem inRange_mono {p m : Nat} (hpm : p ≤ m) {q : Point} (h : q.inRange p = true) : q.inRange m = true := by
  cases q with
  | inf => rfl
  | aff x y =>
    rw [Laws.inRange_aff] at h ⊢
    exact ⟨h.1.trans_le hpm, h.2.trans_le hpm⟩

/-! The RSA key: both primes are below 2^PBITS, and OPW is at least 2·PBITS (R11, R211). -/

theorem goodPrime_some {par : Params} {a : Option Nat} {v : Nat} (h : goodPrime par a = some v) :
    2 ≤ v ∧ v < 2 ^ par.pbits := by
  unfold goodPrime at h
  split at h
  · cases h
  · split at h
    · next hv => cases h; exact hv
    · cases h

theorem rsaKey_ok {p q n d : Nat} (h : rsaKey p q = .ok (n, d)) : n = p * q ∧ d < (p - 1) * (q - 1) := by
  unfold rsaKey at h
  split at h
  · cases h
  · next hlam =>
    split at h
    · cases h
    · next x hx => cases h; exact ⟨rfl, (Laws.inv_eq_some (not_lt.mp hlam) hx).1⟩

theorem rsaKey_lt {par : Params} (hl : par.Legal) {p q n d : Nat} (hp : p < 2 ^ par.pbits) (hq : q < 2 ^ par.pbits)
    (h : rsaKey p q = .ok (n, d)) : n < 2 ^ par.opw ∧ d < 2 ^ par.opw := by
  obtain ⟨-, -, -, -, hbits⟩ := hl
  obtain ⟨rfl, hd⟩ := rsaKey_ok h
  have hn : p * q < 2 ^ par.opw := calc
    p * q < 2 ^ par.pbits * 2 ^ par.pbits := Nat.mul_lt_mul'' hp hq
    _ = 2 ^ (2 * par.pbits) := by rw [← pow_add, two_mul]
    _ ≤ 2 ^ par.opw := Nat.pow_le_pow_right Nat.zero_lt_two hbits
  exact ⟨hn, hd.trans_le (Nat.mul_le_mul (Nat.sub_le p 1) (Nat.sub_le q 1)) |>.trans hn⟩

theorem rsaGenerate_lt {par : Params} (hl : par.Legal) {dr : Draws} {n d : Nat}
    (h : (rsaGenerate par dr).1 = .ok (n, d)) : n < 2 ^ par.opw ∧ d < 2 ^ par.opw := by
  unfold rsaGenerate at h
  split at h
  · cases h
  · next p hp =>
    split at h
    · cases h
    · next q hq => exact rsaKey_lt hl (goodPrime_some hp).2 (goodPrime_some hq).2 h

/-! Completions on operands below 2^OPW. -/

/-- The big registers and the configuration of a snapshot hold naturals below 2^OPW (R21, R37). -/
structure SnapshotFits (par : Params) (o : Snapshot) : Prop where
  big : ∀ r : BReg, o.b r < 2 ^ par.opw
  cfg : o.cfg.Fits par

/-- A completion writes naturals below 2^OPW and points with such coordinates. -/
structure Completion.Fits (par : Params) (c : Completion) : Prop where
  big : ∀ e ∈ c.big, e.2 < 2 ^ par.opw
  pt : ∀ e ∈ c.pt, e.2.inRange (2 ^ par.opw) = true

theorem fits_of_no_destination (par : Params) {c : Completion} (hb : c.big = []) (hp : c.pt = []) : c.Fits par :=
  ⟨by rw [hb]; exact nofun, by rw [hp]; exact nofun⟩

theorem ofBig_fits {par : Params} (dr : Draws) (d : BReg) {e : Except ErrCode Nat} {m : Nat} (hm : m < 2 ^ par.opw)
    (h : ∀ {v}, e = .ok v → v < m) : (Completion.ofBig dr d e).Fits par := by
  cases e with
  | ok v => exact ⟨List.forall_mem_singleton.mpr ((h rfl).trans hm), nofun⟩
  | error code => exact fits_of_no_destination par rfl rfl

theorem ofPoint_fits {par : Params} (dr : Draws) (d : PReg) {e : Except ErrCode Point} {p : Nat} (hp : p < 2 ^ par.opw)
    (h : ∀ {q}, e = .ok q → q.inRange p = true) : (Completion.ofPoint dr d e).Fits par := by
  cases e with
  | ok q => exact ⟨nofun, List.forall_mem_singleton.mpr (inRange_mono hp.le (h rfl))⟩
  | error code => exact fits_of_no_destination par rfl rfl

theorem ofBool_fits (par : Params) (dr : Draws) (e : Except ErrCode Bool) : (Completion.ofBool dr e).Fits par := by
  cases e <;> exact fits_of_no_destination par rfl rfl

theorem ecdsaKeygen_fits {par : Params} (dr : Draws) {c : CurveCfg} (hc : c.Fits par) (priv : BReg) (pub : PReg) :
    (Completion.ecdsaKeygen dr c priv pub).Fits par := by
  unfold Completion.ecdsaKeygen
  split
  · exact fits_of_no_destination par rfl rfl
  · next hgood =>
    have hgood := not_not.mp hgood
    split
    · exact fits_of_no_destination par rfl rfl
    · next q hq =>
      have hd := (Laws.drawRng_mem dr (good_one_lt_n hgood)).2
      exact ⟨List.forall_mem_singleton.mpr (hd.trans hc.n),
        List.forall_mem_singleton.mpr (inRange_mono hc.p.le (keygenPoint_inRange hgood hq))⟩

theorem ecdsaSign_fits {par : Params} (dr : Draws) {o : Snapshot} (hc : o.cfg.Fits par) (r sg h priv : BReg) :
    (Completion.ecdsaSign dr o r sg h priv).Fits par := by
  unfold Completion.ecdsaSign
  split_ifs with halias hgood hh
  · exact fits_of_no_destination par rfl rfl
  · exact fits_of_no_destination par rfl rfl
  · unfold Completion.ofSignRun
    split
    · next rv sv hsig =>
      obtain ⟨k, ha⟩ := Laws.signLoop_some _ _ _ hsig
      obtain ⟨-, hr, -, hs⟩ := Laws.signAttempt_lt (Nat.zero_lt_of_lt (good_one_lt_n hgood)) ha
      exact ⟨List.forall_mem_cons.mpr ⟨hr.trans hc.n, List.forall_mem_singleton.mpr (hs.trans hc.n)⟩, nofun⟩
    · exact fits_of_no_destination par rfl rfl
  · exact fits_of_no_destination par rfl rfl

theorem rsaKeygen_fits {par : Params} (hl : par.Legal) (dr : Draws) (n d : BReg) :
    (Completion.rsaKeygen par dr n d).Fits par := by
  unfold Completion.rsaKeygen
  split
  · exact fits_of_no_destination par rfl rfl
  · split
    · exact fits_of_no_destination par rfl rfl
    · next nv dv hkey =>
      obtain ⟨hn, hd⟩ := rsaGenerate_lt hl hkey
      exact ⟨List.forall_mem_cons.mpr ⟨hn, List.forall_mem_singleton.mpr hd⟩, nofun⟩

/-- Every command writes naturals below 2^OPW (R21). -/
theorem completionOf_fits {par : Params} (hl : par.Legal) (dr : Draws) {o : Snapshot} (ho : SnapshotFits par o)
    (i : Instr) : (completionOf i par dr o).Fits par := by
  cases i with
  | nop => exact fits_of_no_destination par rfl rfl
  | modadd d a b m => exact ofBig_fits dr d (ho.big m) modAdd_lt
  | modsub d a b m => exact ofBig_fits dr d (ho.big m) modSub_lt
  | modmul d a b m => exact ofBig_fits dr d (ho.big m) modMul_lt
  | montmul d a b m => exact ofBig_fits dr d (ho.big m) montMul_lt
  | modred d a m => exact ofBig_fits dr d (ho.big m) modRed_lt
  | modinv d a m => exact ofBig_fits dr d (ho.big m) modInv_lt
  | modexp d base exp m => exact ofBig_fits dr d (ho.big m) modExp_lt
  | ecadd d p q => exact ofPoint_fits dr d ho.cfg.p pointAdd_inRange
  | ecdbl d p => exact ofPoint_fits dr d ho.cfg.p pointDouble_inRange
  | ecmul d k p => exact ofPoint_fits dr d ho.cfg.p pointMul_inRange
  | ecchk | ecdsaVerify | rsaVerify => exact ofBool_fits par dr _
  | ecdsaKeygen priv pub => exact ecdsaKeygen_fits dr ho.cfg priv pub
  | ecdsaSign r sg h priv => exact ecdsaSign_fits dr ho.cfg r sg h priv
  | rsaKeygen n d => exact rsaKeygen_fits hl dr n d
  | rsaSign sig h d n => exact ofBig_fits dr sig (ho.big n) rsaSignature_lt

end Sys2Proof.Proofs
end

section
/-! The writes of registers keep them well formed. -/

namespace Sys2Proof.Proofs

open Sys2Proof.Machine

theorem wordOf_eq_zero_of_lt {v n k : Nat} (hv : v < 2 ^ (32 * n)) (hk : n ≤ k) : wordOf v k = 0 := by
  have hv : v < 2 ^ (32 * k) := hv.trans_le (Nat.pow_le_pow_right Nat.zero_lt_two (Nat.mul_le_mul_left 32 hk))
  rw [wordOf, Nat.div_eq_of_lt hv]
  rfl

theorem bigReg_full_wf {par : Params} (hl : par.Legal) {v : Nat} (hv : v < 2 ^ par.opw) : (BigReg.full par v).Wf par where
  bound := hv
  flags k hk := by
    rw [BigReg.full, Laws.getLsbD_allFlags (Laws.legal_words_le hl)] at hk
    exact of_decide_eq_true hk
  canonical k hk := by
    rw [BigReg.full, Laws.getLsbD_allFlags (Laws.legal_words_le hl)] at hk
    rw [Laws.legal_opw_eq hl] at hv
    exact wordOf_eq_zero_of_lt hv (not_lt.mp (of_decide_eq_false hk))

theorem pointReg_full_wf {par : Params} (hl : par.Legal) {q : Point} (hq : q.inRange (2 ^ par.opw) = true) :
    (PointReg.full par q).Wf par := by
  cases q with
  | inf => exact ⟨bigReg_full_wf hl (Nat.two_pow_pos _), bigReg_full_wf hl (Nat.two_pow_pos _)⟩
  | aff x y =>
    obtain ⟨hx, hy⟩ := (Laws.inRange_aff _ _ _).mp hq
    exact ⟨bigReg_full_wf hl hx, bigReg_full_wf hl hy⟩

theorem withWord_lt_opw {par : Params} (hl : par.Legal) {v k : Nat} (hv : v < 2 ^ par.opw) (hk : k < par.words) (w : Word) :
    withWord v k w < 2 ^ par.opw := by
  rw [Laws.legal_opw_eq hl] at hv ⊢
  exact Laws.withWord_lt w hv hk

theorem storeWord_wf {par : Params} (hl : par.Legal) {r : BigReg} (hr : r.Wf par) {k : Nat} (hk : k < par.words)
    (w : Word) : (r.storeWord k w).Wf par where
  bound := withWord_lt_opw hl hr.bound hk w
  flags j hj := by
    rw [Laws.storeWord_written, Bool.or_eq_true, Bool.and_eq_true, decide_eq_true_eq, decide_eq_true_eq] at hj
    obtain hj | ⟨-, rfl⟩ := hj
    · exact hr.flags j hj
    · exact hk
  canonical j hj := by
    have hk128 : k < 128 := hk.trans_le (Laws.legal_words_le hl)
    rw [Laws.storeWord_written, Bool.or_eq_false_iff, decide_eq_true hk128, Bool.true_and, decide_eq_false_iff_not] at hj
    rw [Laws.storeWord_value, Laws.wordOf_withWord_ne _ _ hj.2]
    exact hr.canonical j hj.1

theorem get_lt_of_fits {par : Params} {c : CurveCfg} (h : c.Fits par) (r : CfgReg) : c.get r < 2 ^ par.opw := by
  cases r with
  | p => exact h.p
  | a => exact h.a
  | b => exact h.b
  | n => exact h.n
  | gx => exact h.gx
  | gy => exact h.gy

theorem set_fits {par : Params} {c : CurveCfg} (h : c.Fits par) (r : CfgReg) {v : Nat} (hv : v < 2 ^ par.opw) :
    (c.set r v).Fits par := by
  cases r with
  | p => exact { h with p := hv }
  | a => exact { h with a := hv }
  | b => exact { h with b := hv }
  | n => exact { h with n := hv }
  | gx => exact { h with gx := hv }
  | gy => exact { h with gy := hv }

theorem signmaxOf_ne_zero (v : Word) : signmaxOf v ≠ 0 := by
  unfold signmaxOf
  split
  · decide
  · assumption

/-! Register files. -/

theorem forall_getElem_set {α : Type} {n : Nat} {P : α → Prop} {regs : Vector α n} (h : ∀ r : Fin n, P regs[r])
    (d : Fin n) {x : α} (hx : P x) (r : Fin n) : P (regs.set d.val x d.isLt)[r] := by
  rw [Fin.getElem_fin, Vector.getElem_set]
  split
  · exact hx
  · exact h r

theorem forall_getElem_foldl_set {α β : Type} {n : Nat} {P : α → Prop} {f : β → α} :
    ∀ {l : List (Fin n × β)} {regs : Vector α n}, (∀ r : Fin n, P regs[r]) → (∀ e ∈ l, P (f e.2)) →
      ∀ r : Fin n, P (l.foldl (fun regs e => regs.set e.1.val (f e.2) e.1.isLt) regs)[r] := by
  intro l
  induction l with
  | nil => intro regs h _; exact h
  | cons e l ih =>
    intro regs h hl
    obtain ⟨he, hl⟩ := List.forall_mem_cons.mp hl
    exact ih (forall_getElem_set h e.1 he) hl

/-! The word slots of the window. -/

/-- A word slot of a register is one of its OPW/32 words. -/
def SlotFits (par : Params) : Slot → Prop
  | .cfgWord _ k | .bigWord _ k | .xWord _ k | .yWord _ k => k < par.words
  | .id | .param | .ctrl | .status | .cmd | .errcode | .tries | .signmax | .infWord _ | .reserved => True

theorem slotFits_ite {par : Params} {p : Prop} [Decidable p] {a b : Slot} (ha : p → SlotFits par a)
    (hb : SlotFits par b) : SlotFits par (if p then a else b) := by
  split
  · next hp => exact ha hp
  · exact hb

/-- The window gives a register no word at or above OPW/32 (R62 to R64). -/
theorem slotAt_fits (par : Params) (off : Nat) : SlotFits par (slotAt par off) := by
  unfold slotAt
  repeat' refine slotFits_ite (fun _ => ?_) ?_
  all_goals trivial

end Sys2Proof.Proofs
end

section
/-! The invariant of the state is kept by every step. -/

namespace Sys2Proof.Proofs

open Sys2Proof.Machine

theorem busyOk_of_idle {s : State} (h : s.phase = .idle) : s.BusyOk := by
  rw [State.BusyOk, h]
  trivial

theorem busyOk_iff {s : State} {w : Word} {snap : Snapshot} (h : s.phase = .busy w snap) :
    s.BusyOk ↔ w = s.cmd ∧ snap = s.liveSnapshot ∧ s.done = false ∧ s.err = .none ∧ s.result = false ∧
      s.resetLine = false := by
  rw [State.BusyOk, h]

/-- The invariant does not speak of the world outside, nor of the record of log 7. -/
theorem inv_withOutside {s : State} (h : s.Inv) (inputs : List Input) (draws : Draws) (resp : BusResp)
    (unwrittenOperand : Option Instr) :
    State.Inv { s with inputs := inputs, draws := draws, resp := resp, unwrittenOperand := unwrittenOperand } :=
  ⟨h.legal, h.big, h.pt, h.cfg, h.signmax, h.result, h.busy⟩

theorem inv_of_sameBlock {s t : State} (h : s.Inv) (ht : SameBlock s t) : t.Inv := by
  rw [ht]
  exact inv_withOutside h _ _ _ _

/-! Completions. -/

theorem prepared_inv {s : State} (h : s.Inv) (i : Instr) : (s.prepared i).Inv := by
  rw [(Laws.prepared_eq s i).1]
  exact inv_withOutside h _ _ _ _

theorem applyTo_inv {s : State} (h : s.Inv) {c : Completion} (hc : c.Fits s.par)
    (hr : c.result = true → c.code = .none) : (c.applyTo s).Inv where
  legal := h.legal
  big := forall_getElem_foldl_set h.big fun e he => bigReg_full_wf h.legal (hc.big e he)
  pt := forall_getElem_foldl_set h.pt fun e he => pointReg_full_wf h.legal (hc.pt e he)
  cfg := h.cfg
  signmax := h.signmax
  result := hr
  busy := trivial

/-- In both phases the operands are what the registers hold. -/
theorem operands_eq_liveSnapshot {s : State} (h : s.Inv) : s.operands = s.liveSnapshot := by
  cases hp : s.phase with
  | idle => exact Laws.operands_idle hp
  | busy w snap =>
    obtain ⟨-, hsnap, -⟩ := (busyOk_iff hp).mp h.busy
    rw [Laws.operands_busy hp, hsnap]

theorem values_fits {s : State} (h : s.Inv) (i : Instr) : SnapshotFits s.par (s.values i) := by
  cases ho : operandsWritten s.par s.operands i with
  | true =>
    rw [Laws.values_of_written ho, operands_eq_liveSnapshot h]
    exact ⟨fun r => (h.big r).bound, h.cfg⟩
  | false =>
    rw [Laws.values_of_unwritten ho, operands_eq_liveSnapshot h]
    refine ⟨fun r => ?_, h.cfg⟩
    rw [Snapshot.b, Laws.filled_big]
    exact Laws.filled_lt h.legal (h.big r).bound _

theorem exec_inv {i : Instr} {s t : State} (h : s.Inv) (ht : exec i s = .next t) : t.Inv := by
  rw [exec_next_iff] at ht
  rw [ht]
  refine applyTo_inv (prepared_inv h i) (completionOf_fits (prepared_inv h i).legal _ ?_ i)
    fun hr => ((completionOf_respects i _ _ _).result hr).1
  rw [prepared_par]
  exact values_fits h i

theorem completeError_inv {s : State} (h : s.Inv) (code : ErrCode) : (s.completeError code).Inv :=
  ⟨h.legal, h.big, h.pt, h.cfg, h.signmax, nofun, trivial⟩

theorem completeWord_inv {w : Word} {s t : State} (h : s.Inv) (ht : completeWord w s = .next t) : t.Inv := by
  unfold completeWord at ht
  split at ht
  · cases ht; exact completeError_inv h _
  · cases ht; exact completeError_inv h _
  · exact exec_inv h ht

/-! Host writes. -/

theorem accept_inv {s : State} (h : s.Inv) (hr : s.resetLine = false) (v : Word) : (s.accept v).Inv :=
  ⟨h.legal, h.big, h.pt, h.cfg, h.signmax, nofun, rfl, rfl, rfl, rfl, rfl, hr⟩

/-- DONE is already clear while BUSY, and a write of STATUS sets nothing (R34). -/
theorem clearStatus_inv {s : State} (h : s.Inv) (v : Word) : (s.clearStatus v).Inv := by
  refine ⟨h.legal, h.big, h.pt, h.cfg, h.signmax, h.result, ?_⟩
  cases hp : s.phase with
  | idle => exact busyOk_of_idle hp
  | busy w snap =>
    obtain ⟨hw, hsnap, hdone, hrest⟩ := (busyOk_iff hp).mp h.busy
    exact (busyOk_iff (s := s.clearStatus v) hp).mpr ⟨hw, hsnap, by simp [State.clearStatus, hdone], hrest⟩

/-- A store to a data register, which only IDLE lets through (R66, R68). -/
theorem storeSlot_inv {s : State} (h : s.Inv) (hidle : s.phase = .idle) {slot : Slot} (hdata : slot.isData = true)
    (hslot : SlotFits s.par slot) (v : Word) : (s.storeSlot v slot).Inv := by
  cases slot with
  | signmax => exact { h with signmax := signmaxOf_ne_zero v, busy := busyOk_of_idle hidle }
  | cfgWord c k =>
    have hv := withWord_lt_opw h.legal (get_lt_of_fits h.cfg c) hslot v
    exact { h with cfg := set_fits h.cfg c hv, busy := busyOk_of_idle hidle }
  | bigWord i k =>
    have hr := storeWord_wf h.legal (h.big i) hslot v
    exact { h with big := forall_getElem_set h.big i hr, busy := busyOk_of_idle hidle }
  | infWord j => exact { h with pt := forall_getElem_set h.pt j ⟨(h.pt j).x, (h.pt j).y⟩, busy := busyOk_of_idle hidle }
  | xWord j k =>
    have hx := storeWord_wf h.legal (h.pt j).x hslot v
    exact { h with pt := forall_getElem_set h.pt j ⟨hx, (h.pt j).y⟩, busy := busyOk_of_idle hidle }
  | yWord j k =>
    have hy := storeWord_wf h.legal (h.pt j).y hslot v
    exact { h with pt := forall_getElem_set h.pt j ⟨(h.pt j).x, hy⟩, busy := busyOk_of_idle hidle }
  | id | param | ctrl | status | cmd | errcode | tries | reserved => cases hdata

theorem phase_idle_of_not_drops {s : State} {slot : Slot} (hdata : slot.isData = true) (hdrop : s.drops slot = false) :
    s.phase = .idle := by
  rw [← Laws.busy_eq_false_iff]
  simp_all [State.drops]

theorem writeSlot_inv {s : State} (h : s.Inv) (hr : s.resetLine = false) {slot : Slot} (hslot : SlotFits s.par slot)
    (v : Word) : (s.writeSlot slot v).Inv := by
  cases writeSlot_effect s slot v with
  | stored hdata hdrop ht => rw [ht]; exact storeSlot_inv h (phase_idle_of_not_drops hdata hdrop) hdata hslot v
  | status _ ht => rw [ht]; exact clearStatus_inv h v
  | accepted _ _ ht => rw [ht]; exact accept_inv h hr v
  | ignored ht => rw [ht]; exact h
  | dropped _ ht | ctrl _ ht | overrun _ _ ht =>
    rw [ht]; exact ⟨h.legal, h.big, h.pt, h.cfg, h.signmax, h.result, h.busy⟩

/-! The reset line. -/

theorem assertReset_inv {s : State} (h : s.par.Legal) : s.assertReset.Inv where
  legal := h
  big i := (reset_big_get i).symm ▸ bigReg_reset_wf _
  pt j := (reset_pt_get j).symm ▸ pointReg_reset_wf _
  cfg := curveCfg_reset_fits h
  signmax := invariantHoldsAtReset.signmax
  result _ := rfl
  busy := trivial

theorem releaseReset_inv {s : State} (h : s.Inv) : s.releaseReset.Inv := by
  refine ⟨h.legal, h.big, h.pt, h.cfg, h.signmax, h.result, ?_⟩
  cases hp : s.phase with
  | idle => exact busyOk_of_idle hp
  | busy w snap =>
    obtain ⟨hw, hsnap, hdone, herr, hresult, -⟩ := (busyOk_iff hp).mp h.busy
    exact (busyOk_iff (s := s.releaseReset) hp).mpr ⟨hw, hsnap, hdone, herr, hresult, rfl⟩

/-- Settles O12, by the five effects of a step. -/
theorem everyStepKeepsTheInvariant : Obligations.EveryStepKeepsTheInvariant := by
  intro s t h hstep
  cases step_effect hstep with
  | quiet ht => exact inv_of_sameBlock h ht
  | hostWrite addr v rest hin htaken ht =>
    obtain ⟨hr, -⟩ := (Laws.turnedAway_eq_none_iff s addr 4).mp htaken
    rw [ht]
    exact inv_withOutside (writeSlot_inv h hr (slotAt_fits _ _) v) _ _ _ _
  | completion w snap inputs hphase ht => exact completeWord_inv (inv_withOutside h inputs _ _ _) ht
  | resetAsserted rest hin ht => rw [ht]; exact assertReset_inv h.legal
  | resetReleased rest hin ht => rw [ht]; exact releaseReset_inv (inv_withOutside h rest _ _ _)

end Sys2Proof.Proofs
end

section
/-! Where the registers stand in the window (R61 to R65). -/

namespace Sys2Proof.Proofs

open Sys2Proof.Machine

theorem cfgRegOf_cfgIndex (c : CfgReg) : cfgRegOf (cfgIndex c) = c := by
  cases c <;> rfl

theorem cfgIndex_lt (c : CfgReg) : cfgIndex c < 6 := by
  cases c <;> decide

theorem slotAt_gap (par : Params) {off : Nat} (h : 0x020 ≤ off ∧ off < 0x1000 ∨ 0x1C00 ≤ off ∧ off < 0x2000) :
    slotAt par off = .reserved := by
  unfold slotAt
  obtain h | h := h
  · rw [if_pos h.2]
    iterate 8 rw [if_neg (by omega)]
  · rw [if_neg (by omega), if_neg (by omega), if_pos h.2]

theorem slotAt_cfg (par : Params) (c : CfgReg) {k : Nat} (hk : k < 128) :
    slotAt par (0x1000 + 0x200 * cfgIndex c + 4 * k) = if k < par.words then .cfgWord c k else .reserved := by
  have hc := cfgIndex_lt c
  have hreg : (0x1000 + 0x200 * cfgIndex c + 4 * k - 0x1000) / 0x200 = cfgIndex c := by omega
  have hword : (0x1000 + 0x200 * cfgIndex c + 4 * k) % 0x200 / 4 = k := by omega
  rw [slotAt, if_neg (by omega), if_pos (by omega), hreg, hword, cfgRegOf_cfgIndex]

theorem slotAt_big (par : Params) (i : BReg) {k : Nat} (hk : k < 128) :
    slotAt par (0x2000 + 0x200 * i.val + 4 * k) = if k < par.words then .bigWord i k else .reserved := by
  have hi := i.isLt
  have hreg : (0x2000 + 0x200 * i.val + 4 * k - 0x2000) / 0x200 = i.val := by omega
  have hword : (0x2000 + 0x200 * i.val + 4 * k) % 0x200 / 4 = k := by omega
  rw [slotAt, if_neg (by omega), if_neg (by omega), if_neg (by omega), if_pos (by omega), hreg, hword,
    Fin.ofNat_val_eq_self]

/-- The 0x800 bytes of a point register: INF, then X at 0x200 and Y at 0x400 (R63). -/
theorem slotAt_point (par : Params) (j : PReg) {off : Nat} (h : off < 0x800) :
    slotAt par (0x4000 + 0x800 * j.val + off) =
      if off = 0 then .infWord j
      else if off < 0x200 then .reserved
      else if off < 0x400 then if off % 0x200 / 4 < par.words then .xWord j (off % 0x200 / 4) else .reserved
      else if off < 0x600 then if off % 0x200 / 4 < par.words then .yWord j (off % 0x200 / 4) else .reserved
      else .reserved := by
  have hj := j.isLt
  have hreg : (0x4000 + 0x800 * j.val + off - 0x4000) / 0x800 = j.val := by omega
  have hoff : (0x4000 + 0x800 * j.val + off) % 0x800 = off := by omega
  have hword : (0x4000 + 0x800 * j.val + off) % 0x200 = off % 0x200 := by omega
  rw [slotAt, if_neg (by omega), if_neg (by omega), if_neg (by omega), if_neg (by omega), if_pos (by omega), hreg, hoff,
    hword, Fin.ofNat_val_eq_self]

theorem slotAt_x (par : Params) (j : PReg) {k : Nat} (hk : k < 128) :
    slotAt par (0x4200 + 0x800 * j.val + 4 * k) = if k < par.words then .xWord j k else .reserved := by
  have hoff : 0x4200 + 0x800 * j.val + 4 * k = 0x4000 + 0x800 * j.val + (0x200 + 4 * k) := by omega
  have hword : (0x200 + 4 * k) % 0x200 / 4 = k := by omega
  rw [hoff, slotAt_point par j (by omega), if_neg (by omega), if_neg (by omega), if_pos (by omega), hword]

theorem slotAt_y (par : Params) (j : PReg) {k : Nat} (hk : k < 128) :
    slotAt par (0x4400 + 0x800 * j.val + 4 * k) = if k < par.words then .yWord j k else .reserved := by
  have hoff : 0x4400 + 0x800 * j.val + 4 * k = 0x4000 + 0x800 * j.val + (0x400 + 4 * k) := by omega
  have hword : (0x400 + 4 * k) % 0x200 / 4 = k := by omega
  rw [hoff, slotAt_point par j (by omega), if_neg (by omega), if_neg (by omega), if_neg (by omega), if_pos (by omega),
    hword]

theorem slotAt_point_gap (par : Params) (j : PReg) {off : Nat}
    (h : 0x004 ≤ off ∧ off < 0x200 ∨ 0x600 ≤ off ∧ off < 0x800) :
    slotAt par (0x4000 + 0x800 * j.val + off) = .reserved := by
  rw [slotAt_point par j (by omega), if_neg (by omega)]
  obtain h | h := h
  · rw [if_pos h.2]
  · rw [if_neg (by omega), if_neg (by omega), if_neg (by omega)]

/-- Settles O48: each range of the window by the lemma of its registers. -/
theorem windowMap : Obligations.WindowMap := by
  intro par k _ hk
  exact ⟨⟨rfl, rfl, rfl, rfl, rfl, rfl, rfl, rfl⟩, fun _ => slotAt_gap par, fun c => slotAt_cfg par c hk,
    fun i => slotAt_big par i hk, fun j => slotAt_point par j (off := 0) (by decide), fun j => slotAt_x par j hk,
    fun j => slotAt_y par j hk, fun j _ => slotAt_point_gap par j⟩

end Sys2Proof.Proofs
end

section
/-! Host accesses as steps: the refused ones, the writes of CMD, the dropped writes and the ignored ones (R65 to R71). -/

namespace Sys2Proof.Proofs

open Sys2Proof.Machine

/-! Accesses that are turned away (R71, R271). -/

theorem step_read_turnedAway {s : State} {addr size : Nat} {r : BusResp} {rest : List Input}
    (ha : s.turnedAway addr size = some r) (hin : s.inputs = .read addr size :: rest) :
    step s = .next { s with inputs := rest, resp := r } := by
  rw [Laws.step_of_input hin]
  exact congrArg Host.Outcome.next (Laws.hostRead_turnedAway (s := { s with inputs := rest }) ha)

theorem step_write_turnedAway {s : State} {addr size : Nat} {v : Word} {r : BusResp} {rest : List Input}
    (ha : s.turnedAway addr size = some r) (hin : s.inputs = .write addr size v :: rest) :
    step s = .next { s with inputs := rest, resp := r } := by
  rw [Laws.step_of_input hin]
  exact congrArg Host.Outcome.next (Laws.hostWrite_turnedAway (s := { s with inputs := rest }) ha v)

theorem turnedAway_of_reset {s : State} (h : s.resetLine = true) (addr size : Nat) :
    s.turnedAway addr size = some .noAnswer := by
  rw [State.turnedAway, if_pos h]

theorem turnedAway_of_illegal {s : State} {addr size : Nat} (hr : s.resetLine = false) (hw : s.InWindow addr)
    (hl : ¬ LegalAccess (addr - s.par.wbase) size) : s.turnedAway addr size = some .busError := by
  rw [State.turnedAway, if_neg (Bool.eq_false_iff.mp hr), if_neg (not_not.mpr hw), if_pos hl]

/-- Settles O52: an access under reset and an illegal one are turned away, before the block looks at the word. -/
theorem refusedAccessesChangeNothing : Obligations.RefusedAccessesChangeNothing := by
  intro s addr size v rest
  refine ⟨fun hr => ?_, fun hr hw hl => ?_⟩
  · have ha := turnedAway_of_reset hr addr size
    exact ⟨step_read_turnedAway ha, step_write_turnedAway ha⟩
  · have ha := turnedAway_of_illegal hr hw hl
    exact ⟨step_read_turnedAway ha, step_write_turnedAway ha⟩

/-! Writes that reach a word (R66). -/

theorem step_write_taken {s : State} {addr : Nat} {v : Word} {rest : List Input} (ha : s.turnedAway addr 4 = none)
    (hin : s.inputs = .write addr 4 v :: rest) :
    step s = .next { s.writeSlot (slotAt s.par (addr - s.par.wbase)) v with inputs := rest, resp := .ack } := by
  rw [Laws.step_of_input hin, takeInput, Laws.hostWrite_taken (s := { s with inputs := rest }) ha,
    Laws.writeSlot_withInputs]

/-- A write whose effect on its word is known (R66). -/
theorem step_write_eq {s t : State} {addr : Nat} {v : Word} {rest : List Input} (ha : s.turnedAway addr 4 = none)
    (hin : s.inputs = .write addr 4 v :: rest) (ht : s.writeSlot (slotAt s.par (addr - s.par.wbase)) v = t) :
    step s = .next { t with inputs := rest, resp := .ack } :=
  ht ▸ step_write_taken ha hin

/-! Writes of CMD (R67). -/

theorem writeSlot_cmd (s : State) (v : Word) : s.writeSlot .cmd v = s.writeCmd v :=
  writeSlot_keeps (drops_of_not_isData s rfl) v

theorem turnedAway_cmd {s : State} (hr : s.resetLine = false) : s.turnedAway (s.par.wbase + 0x010) 4 = none := by
  rw [Laws.turnedAway_eq_none_iff, Nat.add_sub_cancel_left]
  exact ⟨hr, ⟨Nat.le_add_right _ _, Nat.add_lt_add_left (by decide) _⟩, by decide⟩

theorem slotAt_cmd (s : State) : slotAt s.par (s.par.wbase + 0x010 - s.par.wbase) = .cmd := by
  rw [Nat.add_sub_cancel_left]
  rfl

theorem wordFailsWith_illegal {v : Word} (h : decode v = .illegal) (s : State) : WordFailsWith v s .illegalOpcode := by
  refine ⟨s.finish .illegalOpcode false, ?_, rfl, rfl, rfl, rfl, Laws.finish_sameElse _ _ _,
    Laws.finish_completedWith _ _ _⟩
  rw [completeWord, h]
  rfl

/-- Settles O9, by the two phases. -/
theorem cmdWriteAcceptsOrOverruns : Obligations.CmdWriteAcceptsOrOverruns := by
  intro s v rest hr hin
  have hslot : s.writeSlot (slotAt s.par (s.par.wbase + 0x010 - s.par.wbase)) v = s.writeCmd v := by
    rw [slotAt_cmd, writeSlot_cmd]
  refine ⟨fun hp => ?_, fun w snap hp => ?_, fun u hd => wordFailsWith_illegal hd u⟩
  · have hidle := (Laws.busy_eq_false_iff s).mpr hp
    exact step_write_eq (turnedAway_cmd hr) hin (hslot.trans (writeCmd_idle hidle v))
  · have hbusy := (Laws.busy_eq_true_iff s).mpr ⟨w, snap, hp⟩
    exact step_write_eq (turnedAway_cmd hr) hin (hslot.trans (writeCmd_busy hbusy v))

/-! Dropped writes (R68). -/

theorem drops_iff (s : State) (slot : Slot) :
    s.drops slot = true ↔ slot.isData = true ∧ (s.busy = true ∨ slot.isCfg = true ∧ s.lock = true) := by
  simp [State.drops]

theorem writeSlot_wrdrop {s : State} {slot : Slot} (hdrop : ¬ s.drops slot = true) (hslot : slot ≠ .status) (v : Word) :
    (s.writeSlot slot v).wrdrop = s.wrdrop := by
  cases writeSlot_effect s slot v with
  | dropped h _ => exact absurd h hdrop
  | status h _ => exact absurd h hslot
  | stored hdata _ ht => rw [ht, storeSlot_of_isData s v hdata]
  | ctrl _ ht | overrun _ _ ht | accepted _ _ ht | ignored ht =>
    exact (congrArg State.wrdrop ht).trans rfl

/-- Settles O51: the hypotheses of the first two clauses are `State.drops` and its negation. -/
theorem droppedWritesSetWrdrop : Obligations.DroppedWritesSetWrdrop := by
  intro s addr v rest ha hin slot
  refine ⟨fun hdata hwhy => ?_, fun hkeep hslot => ?_, fun hslot => ?_, fun hslot => ?_⟩
  · exact step_write_eq ha hin (writeSlot_drops ((drops_iff s slot).mpr ⟨hdata, hwhy⟩) v)
  · exact ⟨_, step_write_taken ha hin, writeSlot_wrdrop (mt (drops_iff s slot).mp hkeep) hslot v⟩
  · have ht : s.writeSlot slot v = s.writeCtrl v := hslot ▸ writeSlot_keeps (drops_of_not_isData s rfl) v
    exact step_write_eq ha hin ht
  · have ht : s.writeSlot slot v = s.clearStatus v := hslot ▸ writeSlot_keeps (drops_of_not_isData s rfl) v
    exact step_write_eq ha hin ht

/-! Writes that are ignored (R31, R32, R36, R39, R65). -/

theorem writeSlot_ignored (s : State) {slot : Slot}
    (h : slot = .reserved ∨ slot = .id ∨ slot = .param ∨ slot = .errcode ∨ slot = .tries) (v : Word) :
    s.writeSlot slot v = s := by
  obtain rfl | rfl | rfl | rfl | rfl := h <;> exact writeSlot_keeps (drops_of_not_isData s rfl) v

/-- Settles O54: a reserved word has no storage, and a read-only word ignores the write. -/
theorem reservedWordsReadZero : Obligations.ReservedWordsReadZero := by
  intro s addr v rest ha slot
  refine ⟨fun hslot hin => ?_, fun hslot hin => step_write_eq ha hin (writeSlot_ignored s hslot v)⟩
  have hw : s.readSlot slot = some 0 := hslot ▸ rfl
  exact step_read_some ha hin hw

end Sys2Proof.Proofs
end

section
/-! A word of a data register reads back after a host write, and every other word of the window reads as before (R66). -/

namespace Sys2Proof.Proofs

open Sys2Proof.Machine

/-! One word of a configuration register, of a big register or coordinate, of INF and of SIGNMAX. -/

theorem cfg_get_set (c : CurveCfg) (r : CfgReg) (v : Nat) (r' : CfgReg) :
    (c.set r v).get r' = if r' = r then v else c.get r' := by
  cases r <;> cases r' <;> rfl

/-- A register's words after a host write of word k (R66). -/
theorem dataWord_storeWord_same {s : State} (hb : s.busy = false) (r : BigReg) {k : Nat} (hk : k < 128) (v : Word) :
    s.dataWord ((r.storeWord k v).written.getLsbD k) (wordOf (r.storeWord k v).value k) = some v := by
  simp [State.dataWord, Laws.storeWord_written, hb, hk]

theorem dataWord_storeWord_ne (s : State) (r : BigReg) {k k' : Nat} (h : k' ≠ k) (v : Word) :
    s.dataWord ((r.storeWord k v).written.getLsbD k') (wordOf (r.storeWord k v).value k') =
      s.dataWord (r.written.getLsbD k') (wordOf r.value k') := by
  simp [Laws.storeWord_written, Laws.wordOf_withWord_ne _ _ h, h]

theorem flagBit_getLsbD_zero (v : Word) : flagBit (v.getLsbD 0) 0 = v &&& 1 := by
  apply BitVec.eq_of_getLsbD_eq
  intro i _
  rw [getLsbD_flagBit _ (by decide), BitVec.getLsbD_and, BitVec.ofNat_eq_ofNat, BitVec.getLsbD_one]
  by_cases h : i = 0 <;> simp [h]

theorem setWidth_low_byte (v : Word) : (v.setWidth 8).setWidth 32 = v &&& 0xFF := by
  apply BitVec.eq_of_toNat_eq
  rw [BitVec.toNat_setWidth_of_le (by decide), BitVec.toNat_setWidth]
  exact (Nat.and_two_pow_sub_one_eq_mod v.toNat 8).symm

/-- What SIGNMAX reads as after a write (R38). -/
theorem setWidth_signmaxOf (v : Word) :
    (signmaxOf v).setWidth 32 = if v &&& 0xFF = 0 then 1 else v &&& 0xFF := by
  rw [← setWidth_low_byte, signmaxOf]
  generalize v.setWidth 8 = b
  split
  · next h => rw [h]; rfl
  · next h => rw [if_neg fun h0 => h (by simpa using congrArg (BitVec.setWidth 8) h0)]

/-! What a store does to the word that is written. -/

theorem readSlot_storeSlot_signmax (s : State) (v : Word) :
    (s.storeSlot v .signmax).readSlot .signmax = some (if v &&& 0xFF = 0 then 1 else v &&& 0xFF) :=
  congrArg some (setWidth_signmaxOf v)

theorem readSlot_storeSlot_cfgWord (s : State) (c : CfgReg) (k : Nat) (v : Word) :
    (s.storeSlot v (.cfgWord c k)).readSlot (.cfgWord c k) = some v := by
  simp [State.readSlot, State.storeSlot, cfg_get_set]

theorem readSlot_storeSlot_bigWord {s : State} (hb : s.busy = false) (i : BReg) {k : Nat} (hk : k < 128) (v : Word) :
    (s.storeSlot v (.bigWord i k)).readSlot (.bigWord i k) = some v := by
  simp only [State.readSlot, State.storeSlot, Laws.getElem_storeBig, if_true]
  exact dataWord_storeWord_same (s := s.storeBig i k v) hb _ hk v

theorem readSlot_storeSlot_infWord {s : State} (hb : s.busy = false) (j : PReg) (v : Word) :
    (s.storeSlot v (.infWord j)).readSlot (.infWord j) = some (v &&& 1) := by
  rw [← flagBit_getLsbD_zero]
  have hb' (r : PointReg) : (s.storePoint j r).busy = false := hb
  simp [State.readSlot, State.storeSlot, State.dataWord, hb']

theorem readSlot_storeSlot_xWord {s : State} (hb : s.busy = false) (j : PReg) {k : Nat} (hk : k < 128) (v : Word) :
    (s.storeSlot v (.xWord j k)).readSlot (.xWord j k) = some v := by
  simp only [State.readSlot, State.storeSlot, Laws.getElem_storePoint, if_true]
  exact dataWord_storeWord_same (s := s.storePoint j _) hb _ hk v

theorem readSlot_storeSlot_yWord {s : State} (hb : s.busy = false) (j : PReg) {k : Nat} (hk : k < 128) (v : Word) :
    (s.storeSlot v (.yWord j k)).readSlot (.yWord j k) = some v := by
  simp only [State.readSlot, State.storeSlot, Laws.getElem_storePoint, if_true]
  exact dataWord_storeWord_same (s := s.storePoint j _) hb _ hk v

/-! What it leaves. -/

/-- A point register replaced reads as before in every word that its new value does not change. -/
theorem readSlot_storePoint (s : State) (j : PReg) (q : PointReg) (other : Slot)
    (hinf : other = .infWord j → s.dataWord q.infWritten (flagBit q.inf 0) = s.readSlot (.infWord j))
    (hx : ∀ k, other = .xWord j k →
      s.dataWord (q.x.written.getLsbD k) (wordOf q.x.value k) = s.readSlot (.xWord j k))
    (hy : ∀ k, other = .yWord j k →
      s.dataWord (q.y.written.getLsbD k) (wordOf q.y.value k) = s.readSlot (.yWord j k)) :
    (s.storePoint j q).readSlot other = s.readSlot other := by
  cases other with
  | infWord j' =>
    simp only [State.readSlot, Laws.getElem_storePoint]
    split
    · next hj => subst hj; exact hinf rfl
    · rfl
  | xWord j' k =>
    simp only [State.readSlot, Laws.getElem_storePoint]
    split
    · next hj => subst hj; exact hx k rfl
    · rfl
  | yWord j' k =>
    simp only [State.readSlot, Laws.getElem_storePoint]
    split
    · next hj => subst hj; exact hy k rfl
    · rfl
  | id | param | ctrl | status | cmd | errcode | tries | signmax | cfgWord | bigWord | reserved => rfl

theorem readSlot_storeSlot_cfgWord_ne (s : State) (c : CfgReg) (k : Nat) (v : Word) {other : Slot}
    (h : other ≠ .cfgWord c k) : (s.storeSlot v (.cfgWord c k)).readSlot other = s.readSlot other := by
  cases other with
  | cfgWord c' k' =>
    simp only [State.readSlot, State.storeSlot, cfg_get_set]
    split
    · next hc =>
      subst hc
      have hk : k' ≠ k := fun hk => h (hk ▸ rfl)
      rw [Laws.wordOf_withWord_ne _ _ hk]
    · rfl
  | id | param | ctrl | status | cmd | errcode | tries | signmax | bigWord | infWord | xWord | yWord | reserved => rfl

theorem readSlot_storeSlot_bigWord_ne (s : State) (i : BReg) (k : Nat) (v : Word) {other : Slot}
    (h : other ≠ .bigWord i k) : (s.storeSlot v (.bigWord i k)).readSlot other = s.readSlot other := by
  cases other with
  | bigWord i' k' =>
    simp only [State.readSlot, State.storeSlot, Laws.getElem_storeBig]
    split
    · next hi =>
      subst hi
      have hk : k' ≠ k := fun hk => h (hk ▸ rfl)
      exact dataWord_storeWord_ne s _ hk v
    · rfl
  | id | param | ctrl | status | cmd | errcode | tries | signmax | cfgWord | infWord | xWord | yWord | reserved => rfl

/-- A store to a data-register word leaves every other word (R66). -/
theorem readSlot_storeSlot_ne (s : State) {slot other : Slot} (hdata : slot.isData = true) (v : Word)
    (h : other ≠ slot) : (s.storeSlot v slot).readSlot other = s.readSlot other := by
  cases slot with
  | signmax =>
    cases other with
    | signmax => exact absurd rfl h
    | id | param | ctrl | status | cmd | errcode | tries | cfgWord | bigWord | infWord | xWord | yWord | reserved => rfl
  | cfgWord c k => exact readSlot_storeSlot_cfgWord_ne s c k v h
  | bigWord i k => exact readSlot_storeSlot_bigWord_ne s i k v h
  | infWord j => exact readSlot_storePoint s j _ other (fun e => absurd e h) (fun _ _ => rfl) fun _ _ => rfl
  | xWord j k =>
    have hk {k' : Nat} (e : other = .xWord j k') : k' ≠ k := fun hk => h (hk ▸ e)
    exact readSlot_storePoint s j _ other (fun _ => rfl) (fun _ e => dataWord_storeWord_ne s _ (hk e) v) fun _ _ => rfl
  | yWord j k =>
    have hk {k' : Nat} (e : other = .yWord j k') : k' ≠ k := fun hk => h (hk ▸ e)
    exact readSlot_storePoint s j _ other (fun _ => rfl) (fun _ _ => rfl) fun _ e => dataWord_storeWord_ne s _ (hk e) v
  | id | param | ctrl | status | cmd | errcode | tries | reserved => cases hdata

/-! Writes of data registers in IDLE. -/

theorem drops_of_idle {s : State} (hb : s.busy = false) {slot : Slot} (h : slot.isCfg = false ∨ s.lock = false) :
    s.drops slot = false := by
  obtain h | h := h <;> simp [State.drops, hb, h]

/-- A write of a data-register word that is not dropped: what the word reads as then, and that no other changed. -/
theorem readSlot_writeSlot {s : State} {slot : Slot} {v : Word} {r : Option Word} (hdata : slot.isData = true)
    (hdrop : s.drops slot = false) (hr : (s.storeSlot v slot).readSlot slot = r) :
    (s.writeSlot slot v).readSlot slot = r ∧
      ∀ other, other ≠ slot → (s.writeSlot slot v).readSlot other = s.readSlot other := by
  rw [writeSlot_keeps hdrop]
  exact ⟨hr, fun _ => readSlot_storeSlot_ne s hdata v⟩

/-- Settles O49: `step_write_taken`, and for each kind of word the store's own word and the others. -/
theorem dataWordsReadBack : Obligations.DataWordsReadBack := by
  refine ⟨fun s addr v rest => step_write_taken, fun s slot v hidle hslot => ?_⟩
  have hb := (Laws.busy_eq_false_iff s).mpr hidle
  obtain ⟨i, k, hk, rfl⟩ | ⟨j, k, hk, rfl⟩ | ⟨j, k, hk, rfl⟩ | ⟨c, k, hl, rfl⟩ := hslot
  · exact readSlot_writeSlot rfl (drops_of_idle hb (.inl rfl)) (readSlot_storeSlot_bigWord hb i hk v)
  · exact readSlot_writeSlot rfl (drops_of_idle hb (.inl rfl)) (readSlot_storeSlot_xWord hb j hk v)
  · exact readSlot_writeSlot rfl (drops_of_idle hb (.inl rfl)) (readSlot_storeSlot_yWord hb j hk v)
  · exact readSlot_writeSlot rfl (drops_of_idle hb (.inr hl)) (readSlot_storeSlot_cfgWord s c k v)

/-- Settles O50: the two words as they are stored, and a step of which nothing but the write is read. -/
theorem infAndSignmaxWrites : Obligations.InfAndSignmaxWrites := by
  intro s addr v rest hidle ha hin slot
  have hb := (Laws.busy_eq_false_iff s).mpr hidle
  refine ⟨fun ⟨j, hslot⟩ => ⟨_, step_write_taken ha hin, ?_⟩, fun hslot => ⟨_, step_write_taken ha hin, ?_⟩⟩
  · have h := readSlot_writeSlot rfl (drops_of_idle hb (.inl rfl)) (readSlot_storeSlot_infWord hb j v)
    rw [← hslot] at h
    exact h
  · have h := readSlot_writeSlot rfl (drops_of_idle hb (.inl rfl)) (readSlot_storeSlot_signmax s v)
    rw [← hslot] at h
    exact h

end Sys2Proof.Proofs
end

section
/-! A running command and the host: an access leaves everything that the completion of the command reads (R78, R275). -/

namespace Sys2Proof.Proofs

open Sys2Proof.Machine

/-- What a completion reads of the block, or leaves in it, is the same: CTRL, the write-1-to-clear flags, the inputs to come,
the draws and the bus response may differ. -/
structure SameForCommand (s t : State) : Prop where
  par : t.par = s.par
  big : t.big = s.big
  pt : t.pt = s.pt
  cfg : t.cfg = s.cfg
  signmax : t.signmax = s.signmax
  cmd : t.cmd = s.cmd
  tries : t.tries = s.tries
  phase : t.phase = s.phase
  unwrittenOperand : t.unwrittenOperand = s.unwrittenOperand

theorem sameForCommand_of_sameBlock {s t : State} (h : SameBlock s t) : SameForCommand s t := by
  rw [h]
  exact ⟨rfl, rfl, rfl, rfl, rfl, rfl, rfl, rfl, rfl⟩

/-- While BUSY no data register is stored to and no command is accepted (R67, R68). -/
theorem writeSlot_sameForCommand {s : State} (hb : s.busy = true) (slot : Slot) (v : Word) :
    SameForCommand s (s.writeSlot slot v) := by
  cases writeSlot_effect s slot v with
  | stored hdata hdrop _ =>
    have hidle := phase_idle_of_not_drops hdata hdrop
    rw [← Laws.busy_eq_false_iff, hb] at hidle
    cases hidle
  | accepted _ hidle _ => rw [hb] at hidle; cases hidle
  | dropped _ ht | ctrl _ ht | status _ ht | overrun _ _ ht | ignored ht =>
    rw [ht]
    exact ⟨rfl, rfl, rfl, rfl, rfl, rfl, rfl, rfl, rfl⟩

theorem hostWrite_sameForCommand {s : State} (hb : s.busy = true) (addr size : Nat) (v : Word) :
    SameForCommand s (s.hostWrite addr size v) := by
  cases ha : s.turnedAway addr size with
  | some r =>
    rw [Laws.hostWrite_turnedAway ha]
    exact sameForCommand_of_sameBlock rfl
  | none =>
    have h := writeSlot_sameForCommand hb (slotAt s.par (addr - s.par.wbase)) v
    rw [Laws.hostWrite_taken ha]
    exact ⟨h.par, h.big, h.pt, h.cfg, h.signmax, h.cmd, h.tries, h.phase, h.unwrittenOperand⟩

theorem SameForCommand.operands {s t : State} (h : SameForCommand s t) : t.operands = s.operands := by
  simp only [State.operands, State.liveSnapshot, h.phase, h.big, h.pt, h.cfg, h.signmax]

theorem SameForCommand.prepared {s t : State} (h : SameForCommand s t) (i : Instr) :
    SameForCommand (s.prepared i) (t.prepared i) := by
  unfold State.prepared
  rw [h.par, h.operands]
  split
  · exact h
  · have hrecord := congrArg (fun o : Option Instr => some (o.getD i)) h.unwrittenOperand
    exact ⟨h.par, h.big, h.pt, h.cfg, h.signmax, h.cmd, h.tries, h.phase, hrecord⟩

/-- The commands that draw at no port (R254, R255). -/
def DrawsNothing (i : Instr) : Prop :=
  opcode i ≠ .ecdsaKeygen ∧ opcode i ≠ .ecdsaSign ∧ opcode i ≠ .rsaKeygen

/-- A command that draws nothing completes in the same way on any draws, and leaves them. -/
theorem completionOf_withDraws {i : Instr} (h : DrawsNothing i) (par : Params) (dr dr' : Draws) (o : Snapshot) :
    completionOf i par dr' o = { completionOf i par dr o with draws := dr' } := by
  obtain ⟨hkeygen, hsign, hrsa⟩ := h
  have big (d : BReg) (e : Except ErrCode Nat) :
      Completion.ofBig dr' d e = { Completion.ofBig dr d e with draws := dr' } := by cases e <;> rfl
  have point (d : PReg) (e : Except ErrCode Point) :
      Completion.ofPoint dr' d e = { Completion.ofPoint dr d e with draws := dr' } := by cases e <;> rfl
  have bool (e : Except ErrCode Bool) :
      Completion.ofBool dr' e = { Completion.ofBool dr e with draws := dr' } := by cases e <;> rfl
  cases i with
  | nop => rfl
  | modadd | modsub | modmul | montmul | modred | modinv | modexp | rsaSign => exact big _ _
  | ecadd | ecdbl | ecmul => exact point _ _
  | ecchk | ecdsaVerify | rsaVerify => exact bool _
  | ecdsaKeygen => exact absurd rfl hkeygen
  | ecdsaSign => exact absurd rfl hsign
  | rsaKeygen => exact absurd rfl hrsa

/-- A command completes in the same way, but for the draws that it leaves: on the same draws, or where it takes no value from
outside the snapshot. -/
theorem completion_sameForCommand {s t : State} {i : Instr} (h : SameForCommand s t)
    (hd : t.draws = s.draws ∨ operandsWritten s.par s.operands i = true ∧ DrawsNothing i) :
    ∃ dr, completionOf i (t.prepared i).par (t.prepared i).draws (t.values i) =
      { completionOf i (s.prepared i).par (s.prepared i).draws (s.values i) with draws := dr } := by
  obtain hd | ⟨ho, hn⟩ := hd
  · have hprepared : (t.prepared i).draws = (s.prepared i).draws := by
      unfold State.prepared
      rw [h.par, h.operands]
      split
      · exact hd
      · simp only [State.noteUnwritten, hd]
    have hvalues : t.values i = s.values i := by simp only [State.values, h.par, h.operands, hd]
    exact ⟨_, by rw [(h.prepared i).par, hprepared, hvalues]⟩
  · have ho' : operandsWritten t.par t.operands i = true := by rw [h.par, h.operands, ho]
    rw [(h.prepared i).par, Laws.values_of_written ho, Laws.values_of_written ho', h.operands]
    exact ⟨_, completionOf_withDraws hn _ _ _ _⟩

theorem takeInput_sameForCommand {s t : State} {e : Input} (hb : s.busy = true)
    (he : (∃ addr size, e = .read addr size) ∨ (∃ addr size v, e = .write addr size v))
    (ht : takeInput s e = .next t) : SameForCommand s t := by
  obtain ⟨addr, size, rfl⟩ | ⟨addr, size, v, rfl⟩ := he
  · cases ht; exact sameForCommand_of_sameBlock (Laws.hostRead_sameBlock s addr size)
  · cases ht; exact hostWrite_sameForCommand hb addr size v

/-- Settles O59: the access leaves what the completion reads, and the completion is a function of that. -/
theorem hostCannotChangeARunningCommand : Obligations.HostCannotChangeARunningCommand := by
  intro s t u e w snap i hp _ hd he ht hu
  have h := takeInput_sameForCommand ((Laws.busy_eq_true_iff s).mpr ⟨w, snap, hp⟩) he ht
  obtain ⟨dr, hc⟩ := completion_sameForCommand (i := i) h (by rwa [Laws.operands_busy hp])
  have hq := h.prepared i
  refine ⟨_, exec_eq_next i t, ?_⟩
  rw [hc, exec_next_iff.mp hu]
  simp only [Completion.applyTo, hq.par, hq.big, hq.pt, hq.cfg, hq.cmd, hq.tries, hq.unwrittenOperand, and_self]

end Sys2Proof.Proofs
end

section
/-! The encoding: a word that matches the row of an opcode has that OP and zero unused fields, decoding in these terms, and
decoding and encoding undo each other (R92 to R101). -/

namespace Sys2Proof.Proofs

open Sys2Proof.Machine

/-! The rows of R94 in the terms of the fields that an opcode uses (R93). -/

theorem pack_inj {f g : Fields} : pack f = pack g ↔ f = g :=
  (Function.LeftInverse.injective Laws.unpack_pack).eq_iff

/-- The mask of an opcode that uses the fields `u`: OP and every field that it does not use. -/
def maskOf (u : FieldUse) : Fields where
  op := .allOnes 6
  fa := if u.fa then 0#4 else .allOnes 4
  fb := if u.fb then 0#4 else .allOnes 4
  fc := if u.fc then 0#4 else .allOnes 4
  fd := if u.fd then 0#4 else .allOnes 4
  pa := if u.pa then 0#3 else .allOnes 3
  pb := if u.pb then 0#3 else .allOnes 3
  pc := if u.pc then 0#3 else .allOnes 3
  s := if u.s then 0#1 else .allOnes 1

/-- The tables of R93 and R94 agree. -/
theorem row_eq (o : Opcode) :
    ∃ u, fieldUse (opValue o) = some u ∧ row o = ⟨pack ⟨opValue o, 0, 0, 0, 0, 0, 0, 0, 0⟩, pack (maskOf u)⟩ := by
  cases o <;> exact ⟨_, rfl, by decide⟩

/-- A field masked: a used one is ignored, an unused one must be zero. -/
theorem and_fieldMask_eq_zero_iff {n : Nat} (x : BitVec n) (used : Bool) :
    (x &&& if used then 0#n else .allOnes n) = 0 ↔ (used || x == 0) = true := by
  cases used <;> simp

/-- A word matches the row of an opcode exactly when it has that OP and zero in every unused field (R93, R94). -/
theorem and_mask_eq_pattern_iff (w : Word) (o : Opcode) :
    w &&& (row o).mask = (row o).pattern ↔ (unpack w).op = opValue o ∧ (unpack w).unusedZero = true := by
  obtain ⟨u, huse, hrow⟩ := row_eq o
  rw [hrow, ← Laws.pack_unpack w, Laws.unpack_pack, Laws.pack_and, pack_inj]
  simp only [Fields.mk.injEq, maskOf, BitVec.and_allOnes, and_fieldMask_eq_zero_iff]
  refine and_congr_right fun hop => ?_
  simp only [Fields.unusedZero, hop, huse, Bool.and_eq_true, and_assoc]

/-! Decoding (R96). -/

theorem opcodeOf_eq_some_iff {op : BitVec 6} {o : Opcode} : opcodeOf op = some o ↔ op = opValue o :=
  ⟨fun h => (Laws.opValue_of_opcodeOf h).symm, fun h => h ▸ Laws.opcodeOf_opValue o⟩

theorem opcodeOf_eq_none_iff (f : Fields) : opcodeOf f.op = none ↔ f.opAssigned = false := by
  rw [Fields.opAssigned, ← Laws.opcodeOf_isSome_iff, Option.isSome_eq_false_iff, Option.isNone_iff_eq_none]

theorem decode_eq_cmd_of_match {w : Word} {o : Opcode} (h : w &&& (row o).mask = (row o).pattern) :
    decode w = .cmd (build o (unpack w)) := by
  have hop := ((and_mask_eq_pattern_iff w o).mp h).1
  simp [decode, opcodeOf_eq_some_iff.mpr hop, h]

theorem opcode_build (o : Opcode) (f : Fields) : opcode (build o f) = o := by
  cases o <;> rfl

/-- A word decodes to a command only if it matches the row of the command's opcode, and the command is built of its fields. -/
theorem match_of_decode_eq_cmd {w : Word} {i : Instr} (h : decode w = .cmd i) :
    w &&& (row (opcode i)).mask = (row (opcode i)).pattern ∧ build (opcode i) (unpack w) = i := by
  unfold decode at h
  split at h
  · cases h
  · next o ho =>
    split_ifs at h with hm
    cases h
    rw [opcode_build]
    exact ⟨not_not.mp hm, rfl⟩

theorem decode_eq_illegal_iff (w : Word) : decode w = .illegal ↔ (unpack w).opAssigned = false := by
  rw [← opcodeOf_eq_none_iff, decode]
  split
  · next h => simp [h]
  · next h => rw [h]; split_ifs <;> simp

theorem decode_eq_reserved {w : Word} (ha : (unpack w).opAssigned = true) (hu : (unpack w).unusedZero = false) :
    ∃ o, decode w = .reserved o := by
  cases hd : decode w with
  | illegal => rw [decode_eq_illegal_iff, ha] at hd; cases hd
  | reserved o => exact ⟨o, rfl⟩
  | cmd i =>
    have hz := ((and_mask_eq_pattern_iff _ _).mp (match_of_decode_eq_cmd hd).1).2
    rw [hu] at hz
    cases hz

theorem exists_op_of_opAssigned {f : Fields} (h : f.opAssigned = true) : ∃ o, f.op = opValue o := by
  cases ho : opcodeOf f.op with
  | none => rw [opcodeOf_eq_none_iff, h] at ho; cases ho
  | some o => exact ⟨o, opcodeOf_eq_some_iff.mp ho⟩

/-! Encoding: the fields of a command (R99). -/

/-- The fields that an opcode uses as they are, every other one zero. -/
def usedPart (u : FieldUse) (f : Fields) : Fields where
  op := f.op
  fa := if u.fa then f.fa else 0
  fb := if u.fb then f.fb else 0
  fc := if u.fc then f.fc else 0
  fd := if u.fd then f.fd else 0
  pa := if u.pa then f.pa else 0
  pb := if u.pb then f.pb else 0
  pc := if u.pc then f.pc else 0
  s := if u.s then f.s else 0

theorem ite_zero_eq_self_iff {n : Nat} (x : BitVec n) (used : Bool) :
    (if used then x else 0) = x ↔ (used || x == 0) = true := by
  cases used with
  | true => simp
  | false => simpa using eq_comm

theorem usedPart_eq_self_iff {u : FieldUse} {f : Fields} (hu : fieldUse f.op = some u) :
    usedPart u f = f ↔ f.unusedZero = true := by
  obtain ⟨op, fa, fb, fc, fd, pa, pb, pc, s⟩ := f
  simp only [usedPart, Fields.mk.injEq, ite_zero_eq_self_iff, true_and]
  simp only [Fields.unusedZero, hu, Bool.and_eq_true, and_assoc]

theorem ofBool_beq_one (b : BitVec 1) : BitVec.ofBool (b == 1#1) = b := by
  revert b; decide

/-- Building the command of an opcode from fields and taking the command's fields leaves those that the opcode uses. -/
theorem fieldsOf_build {o : Opcode} {u : FieldUse} {f : Fields} (hop : f.op = opValue o)
    (hu : fieldUse (opValue o) = some u) : fieldsOf (build o f) = usedPart u f := by
  obtain ⟨op, fa, fb, fc, fd, pa, pb, pc, s⟩ := f
  obtain rfl := hop
  cases o with
  | rsaVerify => cases hu; exact congrArg (Fields.mk _ _ _ _ _ _ _ _) (ofBool_beq_one s)
  | _ => cases hu; rfl

theorem fieldsOf_wellFormed (i : Instr) : i.WellFormed := by
  cases i <;> exact ⟨rfl, rfl⟩

theorem decode_encode (i : Instr) : decode (encode i) = .cmd i := by
  have hm : encode i &&& (row (opcode i)).mask = (row (opcode i)).pattern :=
    (and_mask_eq_pattern_iff _ _).mpr (by simpa using (fieldsOf_wellFormed i).2)
  rw [decode_eq_cmd_of_match hm, Laws.unpack_encode, Laws.build_fieldsOf]

/-- A word that matches the row of its opcode and is built of its fields is the command's word. -/
theorem encode_build {w : Word} {o : Opcode} (h : w &&& (row o).mask = (row o).pattern) :
    encode (build o (unpack w)) = w := by
  obtain ⟨hop, hz⟩ := (and_mask_eq_pattern_iff w o).mp h
  obtain ⟨u, hu, -⟩ := row_eq o
  rw [encode, fieldsOf_build hop hu, (usedPart_eq_self_iff (hop ▸ hu)).mpr hz, Laws.pack_unpack]

theorem wordFailsWith_reserved {w : Word} {o : Opcode} (h : decode w = .reserved o) (s : State) :
    WordFailsWith w s .reservedField := by
  refine ⟨s.finish .reservedField false, ?_, rfl, rfl, rfl, rfl, Laws.finish_sameElse _ _ _,
    Laws.finish_completedWith _ _ _⟩
  rw [completeWord, h]
  rfl

/-! The statements of the family. -/

/-- Settles O2: the word of a command is well formed, so it matches its row, and its fields build the command again. -/
theorem decodeUndoesEncode : Obligations.DecodeUndoesEncode :=
  fun i => ⟨fieldsOf_wellFormed i, decode_encode i⟩

/-- Settles O3: a word that decodes to a command matches the command's row, and `encode` undoes `build` there. -/
theorem encodeUndoesDecode : Obligations.EncodeUndoesDecode := by
  intro w i h
  obtain ⟨hm, hi⟩ := match_of_decode_eq_cmd h
  rw [← hi, encode_build hm]

/-- Settles O4, by what `decode` answers on a word that matches a row, and only there. -/
theorem maskAndMatchSelectTheCommand : Obligations.MaskAndMatchSelectTheCommand := by
  intro w o
  refine ⟨?_, fun h => ⟨_, decode_eq_cmd_of_match h, opcode_build o _⟩⟩
  rintro ⟨i, hd, rfl⟩
  exact (match_of_decode_eq_cmd hd).1

/-- Settles O5: with an assigned OP a word matches its row exactly when its unused fields are zero. -/
theorem unusedFieldsMustBeZero : Obligations.UnusedFieldsMustBeZero := by
  refine fun w s ha => ⟨fun hu => ?_, fun hz => ?_⟩
  · obtain ⟨o, hd⟩ := decode_eq_reserved ha hu
    exact wordFailsWith_reserved hd s
  · obtain ⟨o, hop⟩ := exists_op_of_opAssigned ha
    exact ⟨_, decode_eq_cmd_of_match ((and_mask_eq_pattern_iff w o).mpr ⟨hop, hz⟩)⟩

/-- Settles O6: `decode` answers Illegal exactly where the tables assign no opcode. -/
theorem unassignedOpcodeIsIllegal : Obligations.UnassignedOpcodeIsIllegal := fun w s =>
  ⟨(decode_eq_illegal_iff w).symm, fun h => wordFailsWith_illegal ((decode_eq_illegal_iff w).mpr h) s⟩

/-- Settles O1: the words are evaluated by `encode`; that they decode back is `decode_encode`. -/
theorem workedEncodingsDecode : Obligations.WorkedEncodingsDecode := by
  have hmodmul : encode (.modmul 3 1 2 0) = 0x0CC48000 := by decide
  have hecmul : encode (.ecmul 1 4 0) = 0x48100080 := by decide
  have hsign : encode (.ecdsaSign 5 6 1 2) = 0x85449800 := by decide
  have hverify : encode (.rsaVerify true 1 2 3) = 0xC8048C01 := by decide
  have hreserved : decode 0x00000001 = .reserved .nop := by decide
  exact ⟨hmodmul ▸ decode_encode _, hmodmul, hecmul ▸ decode_encode _, hecmul, hsign ▸ decode_encode _, hsign,
    hverify ▸ decode_encode _, hverify, hreserved, wordFailsWith_reserved hreserved, by decide⟩

end Sys2Proof.Proofs
end

section
/-! The frame of a command: its destinations, the completion flags, and the draws of the three commands that draw (R95). -/

namespace Sys2Proof.Proofs

open Sys2Proof.Machine

/-- A completion writes no register outside the lists. -/
structure Completion.Within (c : Completion) (bs : List BReg) (ps : List PReg) : Prop where
  big : c.big.map Prod.fst ⊆ bs
  pt : c.pt.map Prod.fst ⊆ ps

theorem within_of_no_destination {c : Completion} (hb : c.big = []) (hp : c.pt = []) (bs : List BReg) (ps : List PReg) :
    c.Within bs ps :=
  ⟨by rw [hb]; exact List.nil_subset bs, by rw [hp]; exact List.nil_subset ps⟩

theorem ofBig_within (dr : Draws) (d : BReg) (e : Except ErrCode Nat) : (Completion.ofBig dr d e).Within [d] [] := by
  cases e with
  | ok v => exact ⟨List.Subset.refl _, List.Subset.refl _⟩
  | error code => exact within_of_no_destination rfl rfl _ _

theorem ofPoint_within (dr : Draws) (d : PReg) (e : Except ErrCode Point) :
    (Completion.ofPoint dr d e).Within [] [d] := by
  cases e with
  | ok q => exact ⟨List.Subset.refl _, List.Subset.refl _⟩
  | error code => exact within_of_no_destination rfl rfl _ _

theorem ofBool_within (dr : Draws) (e : Except ErrCode Bool) : (Completion.ofBool dr e).Within [] [] := by
  cases e <;> exact within_of_no_destination rfl rfl _ _

theorem ecdsaKeygen_within (dr : Draws) (c : CurveCfg) (priv : BReg) (pub : PReg) :
    (Completion.ecdsaKeygen dr c priv pub).Within [priv] [pub] := by
  unfold Completion.ecdsaKeygen
  split
  · exact within_of_no_destination rfl rfl _ _
  · split
    · exact within_of_no_destination rfl rfl _ _
    · exact ⟨List.Subset.refl _, List.Subset.refl _⟩

theorem ofSignRun_within (r sg : BReg) (run : SignRun) : (Completion.ofSignRun r sg run).Within [r, sg] [] := by
  unfold Completion.ofSignRun
  split
  · exact ⟨List.Subset.refl _, List.Subset.refl _⟩
  · exact within_of_no_destination rfl rfl _ _

theorem ecdsaSign_within (dr : Draws) (o : Snapshot) (r sg h priv : BReg) :
    (Completion.ecdsaSign dr o r sg h priv).Within [r, sg] [] := by
  unfold Completion.ecdsaSign
  split_ifs
  · exact within_of_no_destination rfl rfl _ _
  · exact within_of_no_destination rfl rfl _ _
  · exact ofSignRun_within _ _ _
  · exact within_of_no_destination rfl rfl _ _

theorem rsaKeygen_within (par : Params) (dr : Draws) (n d : BReg) :
    (Completion.rsaKeygen par dr n d).Within [n, d] [] := by
  unfold Completion.rsaKeygen
  split
  · exact within_of_no_destination rfl rfl _ _
  · split
    · exact within_of_no_destination rfl rfl _ _
    · exact ⟨List.Subset.refl _, List.Subset.refl _⟩

/-- Every command writes registers of its destination fields only (R95). -/
theorem completionOf_within (i : Instr) (par : Params) (dr : Draws) (o : Snapshot) :
    (completionOf i par dr o).Within (bigDests i) (pointDests i) := by
  cases i with
  | nop => exact within_of_no_destination rfl rfl _ _
  | modadd | modsub | modmul | montmul | modred | modinv | modexp | rsaSign => exact ofBig_within _ _ _
  | ecadd | ecdbl | ecmul => exact ofPoint_within _ _ _
  | ecchk | ecdsaVerify | rsaVerify => exact ofBool_within _ _
  | ecdsaKeygen => exact ecdsaKeygen_within _ _ _ _
  | ecdsaSign => exact ecdsaSign_within _ _ _ _ _ _
  | rsaKeygen => exact rsaKeygen_within _ _ _ _

/-- Writes to other registers leave a register. -/
theorem getElem_foldl_set_of_notMem {α β : Type} {n : Nat} {f : β → α} {r : Fin n} :
    ∀ {l : List (Fin n × β)} {regs : Vector α n}, r ∉ l.map Prod.fst →
      (l.foldl (fun regs e => regs.set e.1.val (f e.2) e.1.isLt) regs)[r] = regs[r] := by
  intro l
  induction l with
  | nil => intro regs _; rfl
  | cons e l ih =>
    intro regs h
    rw [List.map_cons, List.mem_cons, not_or] at h
    rw [List.foldl_cons, ih h.2]
    exact Vector.getElem_set_ne _ _ fun he => h.1 (Fin.ext he).symm

theorem applyTo_big_of_within {c : Completion} {bs : List BReg} {ps : List PReg} (h : c.Within bs ps) (s : State) :
    BigSameExcept s (c.applyTo s) bs :=
  fun _ hr => getElem_foldl_set_of_notMem (f := BigReg.full s.par) fun hm => hr (h.big hm)

theorem applyTo_pt_of_within {c : Completion} {bs : List BReg} {ps : List PReg} (h : c.Within bs ps) (s : State) :
    PtSameExcept s (c.applyTo s) ps :=
  fun _ hr => getElem_foldl_set_of_notMem (f := PointReg.full s.par) fun hm => hr (h.pt hm)

theorem exec_destinations {i : Instr} {s t : State} (h : exec i s = .next t) :
    BigSameExcept s t (bigDests i) ∧ PtSameExcept s t (pointDests i) := by
  rw [exec_next_iff.mp h]
  have hw := completionOf_within i (s.prepared i).par (s.prepared i).draws (s.values i)
  have hb := applyTo_big_of_within hw (s.prepared i)
  have hp := applyTo_pt_of_within hw (s.prepared i)
  rw [BigSameExcept, prepared_big] at hb
  rw [PtSameExcept, prepared_pt] at hp
  exact ⟨hb, hp⟩

/-- A command that draws at no port leaves the draws as the test for unwritten words left them. -/
theorem exec_draws {i : Instr} {s t : State} (hn : DrawsNothing i) (h : exec i s = .next t) :
    t.draws = (s.prepared i).draws := by
  rw [exec_next_iff.mp h]
  exact congrArg Completion.draws (completionOf_withDraws hn _ (s.prepared i).draws _ _)

/-- Settles O16: the frame of a completed word, the destinations, the record and the draws. -/
theorem commandsWriteOnlyTheirDestinations : Obligations.CommandsWriteOnlyTheirDestinations := by
  intro i s t h
  obtain ⟨hbig, hpt⟩ := exec_destinations h
  have hword := exec_wordCompleted (decode_encode i) h
  refine ⟨hbig, hpt, hword.toSameOthers, fun hop => ?_, fun ho => ?_, fun hkeygen hsign hrsa => ?_⟩
  · by_contra htries
    obtain ⟨j, hj, hsign⟩ := hword.tries htries
    rw [decode_encode] at hj
    cases hj
    exact hop hsign
  · rw [exec_next_iff.mp h, Laws.prepared_of_written ho]
    rfl
  · have hd := exec_draws ⟨hkeygen, hsign, hrsa⟩ h
    obtain ⟨-, hrng, hprime⟩ := Laws.prepared_eq s i
    rw [hd]
    exact ⟨hrng, hprime, fun ho => by rw [Laws.prepared_of_written ho]⟩

end Sys2Proof.Proofs
end

section
/-! The modular group: what each operation answers (R111, R116 to R124), the Montgomery product as an equation of residues
(R120, R121), and the completion of a command whose needed words are written. -/

namespace Sys2Proof.Proofs

open Sys2Proof.Machine

/-! The modulus classes (R111). -/

theorem not_oddModulus_iff (m : Nat) : ¬ OddModulus m ↔ m % 2 = 0 ∨ m < 3 := by
  unfold OddModulus; omega

/-! MODADD, MODSUB and MODRED take every modulus but 0 (R116, R117, R122). -/

theorem modAdd_zero_modulus (a b : Nat) : modAdd a b 0 = .error .badModulus := rfl

theorem modAdd_eq_ok (a b : Nat) {m : Nat} (hm : 1 ≤ m) : modAdd a b m = .ok ((a + b) % m) := by
  rw [modAdd, if_pos hm, ← Nat.cast_add, Laws.emod_natCast]

theorem modSub_zero_modulus (a b : Nat) : modSub a b 0 = .error .badModulus := rfl

theorem modSub_eq_ok (a b : Nat) {m : Nat} (hm : 1 ≤ m) : modSub a b m = .ok (emod ((a : Int) - b) m) :=
  if_pos hm

theorem modRed_zero_modulus (a : Nat) : modRed a 0 = .error .badModulus := rfl

theorem modRed_eq_ok (a : Nat) {m : Nat} (hm : 1 ≤ m) : modRed a m = .ok (a % m) := by
  rw [modRed, if_pos hm, Laws.emod_natCast]

/-! MODMUL and MODEXP take an odd modulus of 3 or more (R118, R124). -/

theorem modMul_not_odd (a b : Nat) {m : Nat} (hm : ¬ OddModulus m) : modMul a b m = .error .badModulus :=
  if_neg hm

theorem modMul_eq_ok (a b : Nat) {m : Nat} (hm : OddModulus m) : modMul a b m = .ok (a * b % m) := by
  rw [modMul, if_pos hm, ← Nat.cast_mul, Laws.emod_natCast]

theorem modExp_not_odd (base exp : Nat) {m : Nat} (hm : ¬ OddModulus m) : modExp base exp m = .error .badModulus :=
  if_neg hm

theorem modExp_eq_ok (base exp : Nat) {m : Nat} (hm : OddModulus m) : modExp base exp m = .ok (base ^ exp % m) := by
  rw [modExp, if_pos hm, Laws.powMod_eq base exp (by omega)]

/-! MODINV takes a modulus of 2 or more, and inverts what is coprime to it (R123, R16). -/

/-- The congruence that defines an inverse (R16), as an equation of remainders. -/
theorem mul_mod_eq_one_of_modEq {a v m : Nat} (hm : 2 ≤ m) (h : (a : Int) * v ≡ 1 [ZMOD m]) : a * v % m = 1 := by
  have hnat : a * v ≡ 1 [MOD m] := Int.natCast_modEq_iff.mp (by exact_mod_cast h)
  rw [hnat, Nat.mod_eq_of_lt hm]

theorem modInv_small_modulus (a : Nat) {m : Nat} (hm : m < 2) : modInv a m = .error .badModulus :=
  if_neg (Nat.not_le_of_lt hm)

theorem modInv_not_coprime {a m : Nat} (hm : 2 ≤ m) (h : Nat.gcd (a % m) m ≠ 1) :
    modInv a m = .error .notInvertible := by
  have hinv : inv a m = none := (Laws.inv_eq_none_iff hm).mpr (by rwa [Laws.emod_natCast])
  rw [modInv, if_pos hm, hinv]

theorem modInv_coprime {a m : Nat} (hm : 2 ≤ m) (h : Nat.gcd (a % m) m = 1) :
    ∃ v, modInv a m = .ok v ∧ v < m ∧ a * v % m = 1 := by
  have hsome : (inv a m).isSome := (Laws.inv_isSome_iff hm).mpr (by rwa [Laws.emod_natCast])
  obtain ⟨v, hv⟩ := Option.isSome_iff_exists.mp hsome
  obtain ⟨hlt, hmul⟩ := Laws.inv_eq_some hm hv
  exact ⟨v, by rw [modInv, if_pos hm, hv], hlt, mul_mod_eq_one_of_modEq hm hmul⟩

/-! MONTMUL checks the modulus, then the operands, and multiplies by the inverse of the radix (R120, R121). -/

theorem montMul_not_odd (a b : Nat) {m : Nat} (hm : ¬ OddModulus m) : montMul a b m = .error .badModulus :=
  if_pos hm

theorem montMul_operand_range {a b m : Nat} (hm : OddModulus m) (h : m ≤ a ∨ m ≤ b) :
    montMul a b m = .error .operandRange := by
  rw [montMul, if_neg (not_not.mpr hm), if_pos (by omega)]

/-- The radix and its inverse as residues (R120). -/
theorem radix_mul_radixInv {m : Nat} (hm : OddModulus m) : (radix m : ZMod m) * radixInv m = 1 := by
  obtain ⟨-, -, hmul⟩ := Laws.radixInv_spec hm.1 hm.2
  exact_mod_cast (ZMod.intCast_eq_intCast_iff _ _ m).mpr hmul

theorem montMul_eq_ok {a b m : Nat} (hm : OddModulus m) (ha : a < m) (hb : b < m) :
    montMul a b m = .ok (a * b * radixInv m % m) := by
  rw [montMul, if_neg (not_not.mpr hm), if_neg (not_not.mpr ⟨ha, hb⟩), ← Nat.cast_mul, ← Nat.cast_mul,
    Laws.emod_natCast]

/-- On operands in range the product is the one v below m with v·R = a·b as residues. -/
theorem montMul_eq_ok_iff {a b m v : Nat} (hm : OddModulus m) (ha : a < m) (hb : b < m) :
    montMul a b m = .ok v ↔ v < m ∧ (v : ZMod m) * radix m = a * b := by
  have hinv := radix_mul_radixInv hm
  rw [montMul_eq_ok hm ha hb, Except.ok.injEq]
  constructor
  · rintro rfl
    refine ⟨Nat.mod_lt _ (by omega), ?_⟩
    push_cast [ZMod.natCast_mod]
    linear_combination (a * b : ZMod m) * hinv
  · rintro ⟨hv, hmul⟩
    have hres : ((a * b * radixInv m : Nat) : ZMod m) = v := by
      push_cast
      linear_combination (v : ZMod m) * hinv - (radixInv m : ZMod m) * hmul
    rw [(ZMod.natCast_eq_natCast_iff' _ _ _).mp hres, Nat.mod_eq_of_lt hv]

theorem montMul_in_range {a b m : Nat} (hm : OddModulus m) (ha : a < m) (hb : b < m) :
    ∃ v, montMul a b m = .ok v ∧ v < m ∧ v * radix m % m = a * b % m := by
  have hok := montMul_eq_ok hm ha hb
  obtain ⟨hlt, hmul⟩ := (montMul_eq_ok_iff hm ha hb).mp hok
  exact ⟨_, hok, hlt, (ZMod.natCast_eq_natCast_iff' _ _ _).mp (by exact_mod_cast hmul)⟩

/-- The Montgomery product of a reduced residue, from an equation of residues (R126). -/
theorem montMul_mod_left {x b z m : Nat} (hm : OddModulus m) (hb : b < m) (h : (z : ZMod m) * radix m = x * b) :
    montMul (x % m) b m = .ok (z % m) := by
  have hlt (n : Nat) : n % m < m := Nat.mod_lt n (by omega)
  exact (montMul_eq_ok_iff hm (hlt x) hb).mpr ⟨hlt z, by simpa using h⟩

/-! The Montgomery radix by the bit length of the modulus (R12, R120). -/

theorem exists_bitlen_radixBits {m : Nat} (hm : m ≠ 0) :
    ∃ len, 2 ^ len ≤ m ∧ m < 2 ^ (len + 1) ∧ radixBits m = 64 * ((len + 1 + 63) / 64) := by
  have hlen : bitlen m - 1 + 1 = bitlen m := Nat.sub_add_cancel (Laws.bitlen_pos hm)
  refine ⟨bitlen m - 1, Laws.two_pow_bitlen_le hm, ?_, ?_⟩
  · rw [hlen]
    exact Laws.lt_two_pow_bitlen m
  · rw [hlen]
    rfl

theorem radix_inverse {m : Nat} (hm : OddModulus m) :
    ∃ v, inv (radix m) m = some v ∧ v < m ∧ radix m * v % m = 1 := by
  obtain ⟨hinv, hlt, hmul⟩ := Laws.radixInv_spec hm.1 hm.2
  exact ⟨_, hinv, hlt, mul_mod_eq_one_of_modEq (by omega) hmul⟩

theorem two_pow_two_mul_radixBits (m : Nat) : 2 ^ (2 * radixBits m) = radix m ^ 2 :=
  pow_mul' 2 2 (radixBits m)

/-! Completions of a command whose needed words are written (R29, R110, R240). -/

theorem exec_of_ready {i : Instr} {s : State} (h : s.Ready i) :
    exec i s = .next ((completionOf i s.par s.draws s.operands).applyTo s) := by
  rw [exec_eq_withOperands, Laws.withOperands_of_written h.2]

theorem writesBig_of_ready {i : Instr} {s : State} {d : BReg} {e : Except ErrCode Nat} {v : Nat} (h : s.Ready i)
    (hi : completionOf i s.par s.draws s.operands = .ofBig s.draws d e) (he : e = .ok v) : WritesBig i s d v :=
  Laws.writesBig_of h.1 (by rw [exec_of_ready h, hi, he, ← completeBig_eq_applyTo]; rfl)

theorem failsWith_of_ready {i : Instr} {s : State} {d : BReg} {e : Except ErrCode Nat} {c : ErrCode} (h : s.Ready i)
    (hi : completionOf i s.par s.draws s.operands = .ofBig s.draws d e) (he : e = .error c) : FailsWith i s c :=
  Laws.failsWith_of (by rw [exec_of_ready h, hi, he, ← completeBig_eq_applyTo]; rfl)

/-- NOP reads no register, so no word that it needs is unwritten (R115). -/
theorem exec_nop (s : State) : exec .nop s = .next (s.finish .none false) :=
  Laws.withOperands_of_written (k := fun s _ => s.succeed) rfl

/-! A word with the OP of an opcode that does not match its row (R96). -/

theorem decode_eq_reserved_of_no_match {w : Word} {o : Opcode} (hop : (unpack w).op = opValue o)
    (h : w &&& (row o).mask ≠ (row o).pattern) : decode w = .reserved o := by
  rw [decode, opcodeOf_eq_some_iff.mpr hop]
  exact if_pos h

/-! The statements of the family. -/

/-- Settles O24: the two checks in order, then the product that `montMul_eq_ok_iff` characterises. -/
theorem montmulIsTheMontgomeryProduct : Obligations.MontmulIsTheMontgomeryProduct := by
  intro d a b m s h
  refine ⟨fun hm => ?_, fun ho h3 hr => ?_, fun ho h3 ha hb => ?_⟩
  · exact failsWith_of_ready h rfl (montMul_not_odd _ _ ((not_oddModulus_iff _).mpr hm))
  · exact failsWith_of_ready h rfl (montMul_operand_range ⟨ho, h3⟩ hr)
  · obtain ⟨v, hok, hlt, hmul⟩ := montMul_in_range ⟨ho, h3⟩ ha hb
    exact ⟨v, hlt, hmul, writesBig_of_ready h rfl hok⟩

/-- Settles O26, by what the extended Euclidean algorithm answers. -/
theorem modinvInverts : Obligations.ModinvInverts := by
  intro d a m s h
  refine ⟨fun hm => ?_, fun hm hg => ?_, fun hm hg => ?_⟩
  · exact failsWith_of_ready h rfl (modInv_small_modulus _ hm)
  · exact failsWith_of_ready h rfl (modInv_not_coprime hm hg)
  · obtain ⟨v, hok, hlt, hmul⟩ := modInv_coprime hm hg
    exact ⟨v, hlt, hmul, writesBig_of_ready h rfl hok⟩

/-- Settles O27, by what square and multiply computes. -/
theorem modexpExponentiates : Obligations.ModexpExponentiates := fun _ _ _ _ _ h =>
  ⟨fun hm => failsWith_of_ready h rfl (modExp_not_odd _ _ ((not_oddModulus_iff _).mpr hm)),
    fun ho h3 => writesBig_of_ready h rfl (modExp_eq_ok _ _ ⟨ho, h3⟩)⟩

/-- Settles O28: each identity is an equation of residues modulo m between the product, times R, and its operands. -/
theorem montgomeryDomainIdentities : Obligations.MontgomeryDomainIdentities := by
  intro m x y ho h3
  have hm : OddModulus m := ⟨ho, h3⟩
  refine ⟨exists_bitlen_radixBits (by omega), rfl, Laws.lt_radix m, Laws.coprime_radix ho, radix_inverse hm,
    montMul_mod_left hm (Nat.mod_lt _ (by omega)) ?_, montMul_mod_left hm (by omega) ?_,
    montMul_mod_left hm (Nat.mod_lt _ (by omega)) ?_, ?_⟩
  · push_cast [ZMod.natCast_mod]
    ring
  · push_cast
    ring
  · push_cast [ZMod.natCast_mod]
    ring
  · rw [modExp_eq_ok _ _ hm, two_pow_two_mul_radixBits]

/-- Settles O20: every bit of NOP's row is fixed to zero, so a word that is not zero does not match it. -/
theorem nopChangesNoRegister : Obligations.NopChangesNoRegister := by
  refine ⟨fun s => Laws.answersBool_of (exec_nop s), fun w hop hw => decode_eq_reserved_of_no_match hop ?_⟩
  have hmask : w &&& (row .nop).mask = w := BitVec.and_allOnes
  rwa [hmask]

/-- Settles O21: the sum is reduced by the Euclidean remainder (R15). -/
theorem modaddAddsModulo : Obligations.ModaddAddsModulo := fun _ _ _ _ _ h =>
  ⟨fun hm => failsWith_of_ready h rfl (hm ▸ modAdd_zero_modulus _ _),
    fun hm => writesBig_of_ready h rfl (modAdd_eq_ok _ _ hm)⟩

/-- Settles O22: the Euclidean remainder of the difference is the residue. -/
theorem modsubSubtractsModulo : Obligations.ModsubSubtractsModulo := fun _ _ _ _ _ h =>
  ⟨fun hm => failsWith_of_ready h rfl (hm ▸ modSub_zero_modulus _ _),
    fun hm => ⟨_, Laws.emod_lt _ hm, Laws.emod_sub_add _ _ hm, writesBig_of_ready h rfl (modSub_eq_ok _ _ hm)⟩⟩

/-- Settles O23: the product is reduced by the Euclidean remainder (R15). -/
theorem modmulMultipliesModulo : Obligations.ModmulMultipliesModulo := fun _ _ _ _ _ h =>
  ⟨fun hm => failsWith_of_ready h rfl (modMul_not_odd _ _ ((not_oddModulus_iff _).mpr hm)),
    fun ho h3 => writesBig_of_ready h rfl (modMul_eq_ok _ _ ⟨ho, h3⟩)⟩

/-- Settles O25: the Euclidean remainder of a natural is its remainder (R15). -/
theorem modredReduces : Obligations.ModredReduces := fun _ _ _ _ h =>
  ⟨fun hm => failsWith_of_ready h rfl (hm ▸ modRed_zero_modulus _),
    fun hm => writesBig_of_ready h rfl (modRed_eq_ok _ hm)⟩

end Sys2Proof.Proofs
end

section
/-! The elliptic-curve group: what doubling and addition answer as equations modulo p (R154, R155), scalar multiplication bit by
bit (R156), the curve equation in the field of p elements (R159), and the completion of the point commands (R151). -/

namespace Sys2Proof.Proofs

open Sys2Proof.Machine

/-! A slope: a numerator times the inverse of a reduced denominator (R154, R155). -/

theorem gcd_emod (a : Int) {m : Nat} (hm : 0 < m) : Nat.gcd (emod a m) m = Int.gcd a m := by
  rw [← Int.gcd_natCast_natCast, Laws.emod_cast a hm, Int.gcd_emod]

theorem inv_emod_eq_none {a : Int} {m : Nat} (hm : 2 ≤ m) (h : Int.gcd a m ≠ 1) : inv (emod a m) m = none := by
  rw [Laws.inv_eq_none_iff hm, Laws.emod_of_lt (Laws.emod_lt a (by omega)), Nat.Coprime, gcd_emod a (by omega)]
  exact h

theorem exists_slope {a : Int} (b : Int) {m : Nat} (hm : 2 ≤ m) (h : Int.gcd a m = 1) :
    ∃ t, inv (emod a m) m = some t ∧ a * emod (b * t) m ≡ b [ZMOD m] := by
  have hsome : (inv (emod a m) m).isSome := by
    rw [Laws.inv_isSome_iff hm, Laws.emod_of_lt (Laws.emod_lt a (by omega)), Nat.Coprime, gcd_emod a (by omega)]
    exact h
  obtain ⟨t, ht⟩ := Option.isSome_iff_exists.mp hsome
  obtain ⟨-, hinv⟩ := Laws.inv_eq_some hm ht
  have hinv' : a * t ≡ 1 [ZMOD m] := ((Laws.emod_modEq a (by omega)).mul_right _).symm.trans hinv
  refine ⟨t, ht, ?_⟩
  calc a * emod (b * t) m
      ≡ a * (b * t) [ZMOD m] := (Laws.emod_modEq _ (by omega)).mul_left a
    _ = b * (a * t) := by ring
    _ ≡ b * 1 [ZMOD m] := hinv'.mul_left b
    _ = b := mul_one b

/-! The third point, doubling and addition (R154, R155). -/

theorem chordPoint_spec {p : Nat} (hp : 0 < p) (lam x1 y1 x2 : Nat) :
    ∃ x3 y3 : Nat, (x3 : Int) ≡ lam * lam - x1 - x2 [ZMOD p] ∧ x3 < p ∧
      (y3 : Int) ≡ lam * (x1 - x3) - y1 [ZMOD p] ∧ y3 < p ∧ chordPoint p lam x1 y1 x2 = .aff x3 y3 :=
  ⟨_, _, Laws.emod_modEq _ hp, Laws.emod_lt _ hp, Laws.emod_modEq _ hp, Laws.emod_lt _ hp, rfl⟩

theorem ecDbl_zero (c : CurveCfg) (x : Nat) : ecDbl c (.aff x 0) = .ok .inf := rfl

theorem ecDbl_not_coprime {c : CurveCfg} (hp : 2 ≤ c.p) (x : Nat) {y : Nat} (hy : y ≠ 0)
    (h : Int.gcd (2 * y) c.p ≠ 1) : ecDbl c (.aff x y) = .error .notInvertible := by
  rw [ecDbl, if_neg hy, inv_emod_eq_none hp h]

theorem ecDbl_coprime {c : CurveCfg} (hp : 2 ≤ c.p) (x : Nat) {y : Nat} (hy : y ≠ 0) (h : Int.gcd (2 * y) c.p = 1) :
    ∃ lam : Nat, 2 * (y : Int) * lam ≡ 3 * x * x + c.a [ZMOD c.p] ∧ lam < c.p ∧
      ecDbl c (.aff x y) = .ok (chordPoint c.p lam x y x) := by
  obtain ⟨t, ht, hslope⟩ := exists_slope (3 * x * x + c.a) hp h
  exact ⟨_, hslope, Laws.emod_lt _ (by omega), by rw [ecDbl, if_neg hy, ht]⟩

theorem ecAdd_inf_left (c : CurveCfg) (q : Point) : ecAdd c .inf q = .ok q := rfl

theorem ecAdd_inf_right (c : CurveCfg) (q : Point) : ecAdd c q .inf = .ok q := by
  cases q <;> rfl

theorem ecAdd_self (c : CurveCfg) (x y : Nat) : ecAdd c (.aff x y) (.aff x y) = ecDbl c (.aff x y) :=
  if_pos ⟨rfl, rfl⟩

theorem ecAdd_same_x (c : CurveCfg) (x : Nat) {y1 y2 : Nat} (hy : y1 ≠ y2) :
    ecAdd c (.aff x y1) (.aff x y2) = if (y1 + y2) % c.p = 0 then .ok .inf else .error .notInvertible := by
  rw [ecAdd, if_neg (fun h => hy h.2), ecChord, if_pos rfl, ← Nat.cast_add, Laws.emod_natCast]

theorem ecAdd_not_coprime {c : CurveCfg} (hp : 2 ≤ c.p) {x1 x2 : Nat} (y1 y2 : Nat) (hx : x1 ≠ x2)
    (h : Int.gcd ((x1 : Int) - x2) c.p ≠ 1) : ecAdd c (.aff x1 y1) (.aff x2 y2) = .error .notInvertible := by
  rw [ecAdd, if_neg (fun h => hx h.1), ecChord, if_neg hx, inv_emod_eq_none hp h]

theorem ecAdd_coprime {c : CurveCfg} (hp : 2 ≤ c.p) {x1 x2 : Nat} (y1 y2 : Nat) (hx : x1 ≠ x2)
    (h : Int.gcd ((x1 : Int) - x2) c.p = 1) :
    ∃ lam : Nat, ((x1 : Int) - x2) * lam ≡ y1 - y2 [ZMOD c.p] ∧ lam < c.p ∧
      ecAdd c (.aff x1 y1) (.aff x2 y2) = .ok (chordPoint c.p lam x1 y1 x2) := by
  obtain ⟨t, ht, hslope⟩ := exists_slope ((y1 : Int) - y2) hp h
  exact ⟨_, hslope, Laws.emod_lt _ (by omega), by rw [ecAdd, if_neg (fun h => hx h.1), ecChord, if_neg hx, ht]⟩

/-! Scalar multiplication, one bit at a time (R156). -/

theorem ecMulStep_eq_bind (c : CurveCfg) (p acc : Point) (b : Bool) :
    ecMulStep c p b acc = (ecDbl c acc).bind fun dbl => if b then ecAdd c dbl p else .ok dbl := by
  unfold ecMulStep
  cases ecDbl c acc <;> rfl

theorem ecMulLoop_succ (c : CurveCfg) (k : Nat) (p : Point) (i : Nat) (acc : Point) :
    ecMulLoop c k p (i + 1) acc = (ecMulStep c p (bit k i) acc).bind (ecMulLoop c k p i) := by
  rw [ecMulLoop]
  cases ecMulStep c p (bit k i) acc <;> rfl

theorem bit_append_zero (k : Nat) (b : Bool) : bit (2 * k + b.toNat) 0 = b := by
  cases b <;> simp [bit]

theorem bit_append_succ (k i : Nat) (b : Bool) : bit (2 * k + b.toNat) (i + 1) = bit k i := by
  have hhalf : (2 * k + b.toNat) / 2 = k := by have := b.toNat_lt; omega
  rw [bit, bit, pow_succ', ← Nat.div_div_eq_div_mul, hhalf]

theorem bitlen_append {k : Nat} (hk : 1 ≤ k) (b : Bool) : bitlen (2 * k + b.toNat) = bitlen k + 1 := by
  have hhalf : (2 * k + b.toNat) / 2 = k := by have := b.toNat_lt; omega
  rw [bitlen, bitlen, if_neg (by omega), if_neg (by omega), Nat.log2_def, if_pos (by omega), hhalf]

/-- The loop over one more low bit ends with a turn for that bit. -/
theorem ecMulLoop_append (c : CurveCfg) (k : Nat) (p : Point) (b : Bool) (i : Nat) :
    ∀ acc, ecMulLoop c (2 * k + b.toNat) p (i + 1) acc = (ecMulLoop c k p i acc).bind (ecMulStep c p b) := by
  induction i with
  | zero =>
    intro acc
    rw [ecMulLoop_succ, bit_append_zero]
    show (ecMulStep c p b acc).bind .ok = ecMulStep c p b acc
    cases ecMulStep c p b acc <;> rfl
  | succ i ih =>
    intro acc
    rw [ecMulLoop_succ, bit_append_succ, ecMulLoop_succ]
    cases ecMulStep c p (bit k i) acc with
    | error e => rfl
    | ok next => exact ih next

theorem ecMul_append (c : CurveCfg) {k : Nat} (hk : 1 ≤ k) (p : Point) (b : Bool) :
    ecMul c (2 * k + b.toNat) p = (ecMul c k p).bind (ecMulStep c p b) := by
  obtain ⟨i, hi⟩ := Nat.exists_eq_add_of_le' (Laws.bitlen_pos (v := k) (by omega))
  rw [ecMul, ecMul, if_neg (by omega), if_neg (by omega), bitlen_append hk, hi]
  exact ecMulLoop_append c k p b i p

/-! The curve equation (R162). -/

theorem onCurve_iff (c : CurveCfg) (q : Point) :
    onCurve c q = true ↔
      ∃ x y, q = .aff x y ∧ x < c.p ∧ y < c.p ∧ y * y % c.p = (x * x * x + c.a * x + c.b) % c.p := by
  cases q with
  | inf => exact ⟨nofun, nofun⟩
  | aff x y =>
    have hl : emod ((y : Int) * y) c.p = y * y % c.p := by exact_mod_cast Laws.emod_natCast (y * y) c.p
    have hr : emod ((x : Int) * x * x + c.a * x + c.b) c.p = (x * x * x + c.a * x + c.b) % c.p := by
      exact_mod_cast Laws.emod_natCast (x * x * x + c.a * x + c.b) c.p
    simp [onCurve, hl, hr, and_assoc]

/-- The curve equation between residues modulo p (R159). -/
def CurveEquation (c : CurveCfg) (x y : ZMod c.p) : Prop := y * y = x * x * x + c.a * x + c.b

theorem onCurve_aff_iff (c : CurveCfg) (x y : Nat) :
    onCurve c (.aff x y) = true ↔ x < c.p ∧ y < c.p ∧ CurveEquation c x y := by
  have heq : CurveEquation c x y ↔ y * y % c.p = (x * x * x + c.a * x + c.b) % c.p := by
    rw [CurveEquation, ← ZMod.natCast_eq_natCast_iff']
    push_cast
    rfl
  rw [heq, onCurve_iff]
  constructor
  · rintro ⟨_, _, ⟨⟩, h⟩
    exact h
  · exact fun h => ⟨x, y, rfl, h⟩

/-- The line of slope lam through two points of the curve, or tangent to it at one point (then taken twice), meets the curve
again at the negative of the point that the slope formulas give. `hquot` is the slope as the curve equation gives it. -/
theorem curveEquation_third {c : CurveCfg} {lam x1 y1 x2 y2 x3 y3 : ZMod c.p} (hline : (x1 - x2) * lam = y1 - y2)
    (hquot : lam * (y1 + y2) = x1 * x1 + x1 * x2 + x2 * x2 + c.a) (h1 : CurveEquation c x1 y1)
    (hx : x3 = lam * lam - x1 - x2) (hy : y3 = lam * (x1 - x3) - y1) : CurveEquation c x3 y3 := by
  unfold CurveEquation at h1 ⊢
  subst hy hx
  linear_combination h1 + (lam * lam - x1 - x2 - x1) * (hquot - lam * hline)

theorem intCast_eq_of_modEq {p : Nat} {a b : Int} (h : a ≡ b [ZMOD p]) : (a : ZMod p) = b :=
  (ZMod.intCast_eq_intCast_iff a b p).mpr h

theorem onCurve_chordPoint {c : CurveCfg} (hp : 0 < c.p) {lam x1 y1 x2 y2 : Nat}
    (hline : ((x1 : ZMod c.p) - x2) * lam = y1 - y2)
    (hquot : (lam : ZMod c.p) * (y1 + y2) = x1 * x1 + x1 * x2 + x2 * x2 + c.a) (h1 : CurveEquation c x1 y1) :
    onCurve c (chordPoint c.p lam x1 y1 x2) = true := by
  obtain ⟨x3, y3, hx, hx3, hy, hy3, heq⟩ := chordPoint_spec hp lam x1 y1 x2
  rw [heq, onCurve_aff_iff]
  exact ⟨hx3, hy3, curveEquation_third hline hquot h1 (by exact_mod_cast intCast_eq_of_modEq hx)
    (by exact_mod_cast intCast_eq_of_modEq hy)⟩

/-! The group over a prime field (R159). -/

/-- A point of the curve group: O, or a point on the curve (R17, R162). -/
def InGroup (c : CurveCfg) (q : Point) : Prop := q = .inf ∨ onCurve c q = true

theorem inGroup_aff {c : CurveCfg} {x y : Nat} (h : InGroup c (.aff x y)) : x < c.p ∧ y < c.p ∧ CurveEquation c x y :=
  (onCurve_aff_iff c x y).mp (h.resolve_left nofun)

/-- A residue of a prime field that is not zero is coprime to the modulus, so it has an inverse (R16). -/
theorem gcd_eq_one_of_cast_ne_zero {p : Nat} (hp : Nat.Prime p) {a : Int} (ha : (a : ZMod p) ≠ 0) : Int.gcd a p = 1 := by
  rw [Int.gcd_comm, ← Int.isCoprime_iff_gcd_eq_one, (Nat.prime_iff_prime_int.mp hp).coprime_iff_not_dvd]
  rwa [Ne, ZMod.intCast_zmod_eq_zero_iff_dvd] at ha

section PrimeField

variable {c : CurveCfg} (hprime : Nat.Prime c.p)
include hprime

theorem curveEquation_opposite {x y1 y2 : ZMod c.p} (hne : y1 ≠ y2) (h1 : CurveEquation c x y1)
    (h2 : CurveEquation c x y2) : y1 + y2 = 0 := by
  have : Fact (Nat.Prime c.p) := ⟨hprime⟩
  unfold CurveEquation at h1 h2
  exact mul_left_cancel₀ (sub_ne_zero.mpr hne) (by linear_combination h1 - h2)

/-- The slope of a chord by the curve equation: the difference of the equations at its ends, divided by x1 - x2. -/
theorem curveEquation_quotient {lam x1 y1 x2 y2 : ZMod c.p} (hne : x1 ≠ x2) (hline : (x1 - x2) * lam = y1 - y2)
    (h1 : CurveEquation c x1 y1) (h2 : CurveEquation c x2 y2) :
    lam * (y1 + y2) = x1 * x1 + x1 * x2 + x2 * x2 + c.a := by
  have : Fact (Nat.Prime c.p) := ⟨hprime⟩
  unfold CurveEquation at h1 h2
  exact mul_left_cancel₀ (sub_ne_zero.mpr hne) (by linear_combination (y1 + y2) * hline + h1 - h2)

theorem ecAdd_same_x_inGroup {x y1 y2 : Nat} (hne : y1 ≠ y2) (h1 : InGroup c (.aff x y1)) (h2 : InGroup c (.aff x y2)) :
    ecAdd c (.aff x y1) (.aff x y2) = .ok .inf := by
  obtain ⟨-, hy1, hcurve1⟩ := inGroup_aff h1
  obtain ⟨-, hy2, hcurve2⟩ := inGroup_aff h2
  have hcast : (y1 : ZMod c.p) ≠ y2 := (CharP.natCast_injOn_Iio (ZMod c.p) c.p).ne hy1 hy2 hne
  have hopp := curveEquation_opposite hprime hcast hcurve1 hcurve2
  have hsum : (y1 + y2) % c.p = 0 :=
    Nat.mod_eq_zero_of_dvd ((ZMod.natCast_eq_zero_iff _ _).mp (by exact_mod_cast hopp))
  rw [ecAdd_same_x c x hne, if_pos hsum]

theorem ecAdd_chord_inGroup {x1 y1 x2 y2 : Nat} (hne : x1 ≠ x2) (h1 : InGroup c (.aff x1 y1))
    (h2 : InGroup c (.aff x2 y2)) : ∃ r, ecAdd c (.aff x1 y1) (.aff x2 y2) = .ok r ∧ InGroup c r := by
  obtain ⟨hx1, -, hcurve1⟩ := inGroup_aff h1
  obtain ⟨hx2, -, hcurve2⟩ := inGroup_aff h2
  have hcast : (x1 : ZMod c.p) ≠ x2 := (CharP.natCast_injOn_Iio (ZMod c.p) c.p).ne hx1 hx2 hne
  have hgcd := gcd_eq_one_of_cast_ne_zero hprime (a := (x1 : Int) - x2) (by exact_mod_cast sub_ne_zero.mpr hcast)
  obtain ⟨lam, hslope, -, heq⟩ := ecAdd_coprime hprime.two_le y1 y2 hne hgcd
  have hline : ((x1 : ZMod c.p) - x2) * lam = y1 - y2 := by exact_mod_cast intCast_eq_of_modEq hslope
  exact ⟨_, heq, .inr (onCurve_chordPoint hprime.pos hline (curveEquation_quotient hprime hcast hline hcurve1 hcurve2)
    hcurve1)⟩

variable (hodd : c.p % 2 = 1)
include hodd

theorem ecDbl_inGroup {q : Point} (h : InGroup c q) : ∃ r, ecDbl c q = .ok r ∧ InGroup c r := by
  cases q with
  | inf => exact ⟨.inf, rfl, .inl rfl⟩
  | aff x y =>
    obtain ⟨-, hy, hcurve⟩ := inGroup_aff h
    by_cases hy0 : y = 0
    · exact ⟨.inf, hy0 ▸ ecDbl_zero c x, .inl rfl⟩
    have hgcd : Int.gcd (2 * y) c.p = 1 :=
      Nat.Coprime.mul_left (Nat.coprime_two_left.mpr (Nat.odd_iff.mpr hodd))
        (Nat.coprime_of_lt_prime hy0 hy hprime).symm
    obtain ⟨lam, hslope, -, heq⟩ := ecDbl_coprime hprime.two_le x hy0 hgcd
    have htangent : 2 * (y : ZMod c.p) * lam = 3 * x * x + c.a := by exact_mod_cast intCast_eq_of_modEq hslope
    exact ⟨_, heq, .inr (onCurve_chordPoint (y2 := y) hprime.pos (by ring) (by linear_combination htangent) hcurve)⟩

theorem ecAdd_inGroup {q r : Point} (hq : InGroup c q) (hr : InGroup c r) : ∃ t, ecAdd c q r = .ok t ∧ InGroup c t := by
  cases q with
  | inf => exact ⟨r, rfl, hr⟩
  | aff x1 y1 =>
    cases r with
    | inf => exact ⟨_, rfl, hq⟩
    | aff x2 y2 =>
      by_cases hx : x1 = x2
      · subst hx
        by_cases hy : y1 = y2
        · subst hy
          rw [ecAdd_self]
          exact ecDbl_inGroup hprime hodd hq
        · exact ⟨.inf, ecAdd_same_x_inGroup hprime hy hq hr, .inl rfl⟩
      · exact ecAdd_chord_inGroup hprime hx hq hr

theorem ecMulStep_inGroup {p acc : Point} (hp : InGroup c p) (b : Bool) (h : InGroup c acc) :
    ∃ r, ecMulStep c p b acc = .ok r ∧ InGroup c r := by
  obtain ⟨dbl, heq, hdbl⟩ := ecDbl_inGroup hprime hodd h
  rw [ecMulStep_eq_bind, heq]
  cases b with
  | false => exact ⟨dbl, rfl, hdbl⟩
  | true => exact ecAdd_inGroup hprime hodd hdbl hp

theorem ecMulLoop_inGroup {p : Point} (hp : InGroup c p) (k i : Nat) :
    ∀ {acc}, InGroup c acc → ∃ r, ecMulLoop c k p i acc = .ok r ∧ InGroup c r := by
  induction i with
  | zero => exact fun h => ⟨_, rfl, h⟩
  | succ i ih =>
    intro acc h
    obtain ⟨next, heq, hnext⟩ := ecMulStep_inGroup hprime hodd hp (bit k i) h
    rw [ecMulLoop_succ, heq]
    exact ih hnext

theorem ecMul_inGroup {p : Point} (hp : InGroup c p) (k : Nat) :
    ∃ r, ecMul c k p = .ok r ∧ InGroup c r := by
  unfold ecMul
  split
  · exact ⟨.inf, rfl, .inl rfl⟩
  · exact ecMulLoop_inGroup hprime hodd hp k _ hp

end PrimeField

/-! Completions of the point commands (R151). -/

theorem failsWith_of_ready_point {i : Instr} {s : State} {d : PReg} {e : Except ErrCode Point} {code : ErrCode}
    (h : s.Ready i) (hi : completionOf i s.par s.draws s.operands = .ofPoint s.draws d e) (he : e = .error code) :
    FailsWith i s code :=
  Laws.failsWith_of (by rw [exec_of_ready h, hi, he, ← completePoint_eq_applyTo]; rfl)

theorem writesPoint_of_ready {i : Instr} {s : State} {d : PReg} {e : Except ErrCode Point} {q : Point}
    (h : s.Ready i) (hi : completionOf i s.par s.draws s.operands = .ofPoint s.draws d e) (he : e = .ok q) :
    WritesPoint i s d q :=
  Laws.writesPoint_of h.1 (by rw [exec_of_ready h, hi, he, ← completePoint_eq_applyTo]; rfl)

/-- The check order of R151 for a command with a point destination: the configuration, the range of the operands, the group
operation, whose only failure is NOT_INVERTIBLE. -/
theorem pointCommand_completes {i : Instr} {s : State} {d : PReg} {inRange : Prop} [Decidable inRange]
    {e : Except ErrCode Point} (h : s.Ready i)
    (hi : completionOf i s.par s.draws s.operands = .ofPoint s.draws d
      (if ¬ s.operands.cfg.Good then .error .badConfig else if ¬ inRange then .error .operandRange else e))
    (herr : ∀ code, e = .error code → code = .notInvertible) :
    (¬ s.operands.cfg.Good → FailsWith i s .badConfig) ∧
    (s.operands.cfg.Good → ¬ inRange → FailsWith i s .operandRange) ∧
    (s.operands.cfg.Good → inRange →
      (∀ r, e = .ok r → WritesPoint i s d r) ∧ (∀ code, e = .error code → FailsWith i s .notInvertible)) := by
  refine ⟨fun hc => failsWith_of_ready_point h hi (if_pos hc), fun hc hr => ?_, fun hc hr => ?_⟩
  · exact failsWith_of_ready_point h hi (by rw [if_neg (not_not.mpr hc), if_pos hr])
  · rw [if_neg (not_not.mpr hc), if_neg (not_not.mpr hr)] at hi
    exact ⟨fun r he => writesPoint_of_ready h hi he,
      fun code he => failsWith_of_ready_point h hi (herr code he ▸ he)⟩

/-! The statements of the family. -/

/-- Settles O29: the slope is the numerator times the inverse of 2y, and `chordPoint` is the point it gives. -/
theorem doublingIsTheTangentRule : Obligations.DoublingIsTheTangentRule := by
  intro c x y hp
  have hgcd : Int.gcd (2 * y) c.p = Nat.gcd (2 * y % c.p) c.p := by
    rw [← gcd_emod _ (by omega)]
    exact_mod_cast congrArg (Nat.gcd · c.p) (Laws.emod_natCast (2 * y) c.p)
  refine ⟨rfl, ecDbl_zero c x, fun hy h => ecDbl_not_coprime hp x hy (hgcd ▸ h), fun hy h => ?_⟩
  obtain ⟨lam, hslope, hlam, heq⟩ := ecDbl_coprime hp x hy (hgcd.trans h)
  obtain ⟨x3, y3, hx3, hx3lt, hy3, hy3lt, hpoint⟩ := chordPoint_spec (p := c.p) (by omega) lam x y x
  rw [sub_sub, ← two_mul] at hx3
  exact ⟨lam, x3, y3, hslope, hlam, hx3, hx3lt, hy3, hy3lt, hpoint ▸ heq⟩

/-- Settles O30, by the cases of `ecAdd`: equal points, equal x, different x. -/
theorem additionIsTheChordRule : Obligations.AdditionIsTheChordRule := by
  intro c q x1 y1 x2 y2 hp _ _ _ _
  refine ⟨rfl, ecAdd_inf_right c q, ecAdd_self c x1 y1, ?_, ?_, fun hx h => ecAdd_not_coprime hp y1 y2 hx h,
    fun hx h => ?_⟩
  · rintro rfl hy hsum
    rw [ecAdd_same_x c x1 hy, if_pos hsum]
  · rintro rfl hy hsum
    rw [ecAdd_same_x c x1 hy, if_neg hsum]
  · obtain ⟨lam, hslope, hlam, heq⟩ := ecAdd_coprime hp y1 y2 hx h
    obtain ⟨x3, y3, hx3, hx3lt, hy3, hy3lt, hpoint⟩ := chordPoint_spec (p := c.p) (by omega) lam x1 y1 x2
    exact ⟨lam, x3, y3, hslope, hlam, hx3, hx3lt, hy3, hy3lt, hpoint ▸ heq⟩

/-- Settles O31: `ecMul_append` for the two values of the low bit. -/
theorem scalarMultiplicationIsDoubleAndAdd : Obligations.ScalarMultiplicationIsDoubleAndAdd := by
  intro c p k
  refine ⟨rfl, rfl, fun hk e he => ?_, fun hk acc hacc => ?_⟩
  · have hbit (b : Bool) : ecMul c (2 * k + b.toNat) p = .error e := by rw [ecMul_append c hk, he]; rfl
    exact ⟨hbit false, hbit true⟩
  · have hbit (b : Bool) : ecMul c (2 * k + b.toNat) p = ecMulStep c p b acc := by rw [ecMul_append c hk, hacc]; rfl
    have heven : ecMul c (2 * k) p = ecMulStep c p false acc := hbit false
    have hodd : ecMul c (2 * k + 1) p = ecMulStep c p true acc := hbit true
    rw [heven, hodd, ecMulStep_eq_bind, ecMulStep_eq_bind]
    cases ecDbl c acc with
    | error e => exact ⟨rfl, fun _ h => h, nofun⟩
    | ok dbl => exact ⟨rfl, nofun, fun _ h => by cases h; rfl⟩

/-- Settles O36: reduction is a law of every operation, and over a prime field each operation answers a point of the group. -/
theorem groupOperationsStayOnTheCurve : Obligations.GroupOperationsStayOnTheCurve := by
  intro c p q k hgood hp hq
  obtain ⟨hodd, h3, -⟩ := hgood
  have hpos : 0 < c.p := by omega
  refine ⟨?_, fun hprime hcp hcq => ⟨ecAdd_inGroup hprime hodd hcp hcq, ecDbl_inGroup hprime hodd hcp,
    ecMul_inGroup hprime hodd hcp k⟩⟩
  rintro r (h | h | h)
  · exact Laws.ecAdd_inRange hpos hp hq h
  · exact Laws.ecDbl_inRange hpos h
  · exact Laws.ecMul_inRange hpos hp h

/-- Settles O32: `pointCommand_completes` with both operands in range. -/
theorem ecaddCompletes : Obligations.EcaddCompletes := by
  intro d p q s h
  obtain ⟨hconfig, hrange, hsum⟩ := pointCommand_completes h rfl fun _ => Laws.ecAdd_error
  refine ⟨hconfig, fun hc hr => hrange hc fun hin => ?_, fun hc hp hq => hsum hc ⟨hp, hq⟩⟩
  simp [hin] at hr

/-- Settles O33, by `pointCommand_completes`. -/
theorem ecdblCompletes : Obligations.EcdblCompletes := by
  intro d p s h
  obtain ⟨hconfig, hrange, hdbl⟩ := pointCommand_completes h rfl fun _ => Laws.ecDbl_error
  exact ⟨hconfig, fun hc hr => hrange hc (Bool.not_eq_true _ ▸ hr), hdbl⟩

/-- Settles O34, by `pointCommand_completes`. -/
theorem ecmulCompletes : Obligations.EcmulCompletes := by
  intro d k p s h
  obtain ⟨hconfig, hrange, hmul⟩ := pointCommand_completes h rfl fun _ => Laws.ecMul_error
  exact ⟨hconfig, fun hc hr => hrange hc (Bool.not_eq_true _ ▸ hr), hmul⟩

/-- Settles O35: the boolean is `onCurve`, which `onCurve_iff` spells out. -/
theorem ecchkAnswersMembership : Obligations.EcchkAnswersMembership := by
  intro p s h
  have hexec : exec (.ecchk p) s = .next (s.completeBool (pointCheck s.operands.cfg (s.operands.p p))) := by
    rw [exec_of_ready h, completeBool_eq_applyTo]
    rfl
  refine ⟨fun hc => Laws.failsWith_of ?_, fun hc => ⟨_, Laws.answersBool_of ?_, onCurve_iff _ _⟩⟩
  · rw [hexec, pointCheck, if_pos hc]
    rfl
  · rw [hexec, pointCheck, if_neg (not_not.mpr hc)]
    rfl

end Sys2Proof.Proofs
end

section
/-! The ECDSA controller: one attempt and one verification as equations of naturals (R183, R185), the signing loop in terms of
the nonces it draws, and how each command of the family completes (R180 to R186). -/

namespace Sys2Proof.Proofs

open Sys2Proof.Machine

/-! An inverse as an equation of remainders (R16). -/

theorem inv_natCast_eq_some_iff {m : Nat} (hm : 2 ≤ m) (a v : Nat) :
    inv a m = some v ↔ v < m ∧ a * v % m = 1 := by
  constructor
  · intro h
    obtain ⟨hlt, hmul⟩ := Laws.inv_eq_some hm h
    exact ⟨hlt, mul_mod_eq_one_of_modEq hm hmul⟩
  · rintro ⟨hlt, hmul⟩
    have hnat : a * v ≡ 1 [MOD m] := hmul.trans (Nat.mod_eq_of_lt hm).symm
    exact Laws.inv_eq_some_of hm hlt (by exact_mod_cast Int.natCast_modEq_iff.mpr hnat)

/-! One attempt of the signing loop (R183). -/

theorem signAttempt_eq_some_iff {c : CurveCfg} {h d k r sg : Nat} :
    signAttempt c h d k = some (r, sg) ↔
      ∃ x y kinv, ecMul c k c.g = .ok (.aff x y) ∧ r = emod x c.n ∧ r ≠ 0 ∧ inv k c.n = some kinv ∧
        sg = emod (kinv * (h + r * d)) c.n ∧ sg ≠ 0 := by
  refine ⟨Laws.signAttempt_some, ?_⟩
  rintro ⟨x, y, kinv, hmul, rfl, hr, hinv, rfl, hs⟩
  simp only [signAttempt, hmul, hinv, if_neg hr, if_neg hs]

/-- Settles O38: `signAttempt_eq_some_iff` with the remainders and the inverse as naturals. -/
theorem signingAttemptFollowsTheEquation : Obligations.SigningAttemptFollowsTheEquation := by
  intro c h d k r sg hn
  have hs (kinv : Nat) : emod ((kinv : Int) * (h + r * d)) c.n = kinv * (h + r * d) % c.n := by
    exact_mod_cast Laws.emod_natCast (kinv * (h + r * d)) c.n
  simp only [signAttempt_eq_some_iff, Laws.emod_natCast, hs, inv_natCast_eq_some_iff hn, and_assoc]

/-! The signing loop by the nonces it draws (R183, R277). -/

theorem drawsAfter_succ (lo hi j : Nat) :
    ∀ dr, drawsAfter lo hi (j + 1) dr = (drawRng lo hi (drawsAfter lo hi j dr)).2 := by
  induction j with
  | zero => exact fun _ => rfl
  | succ j ih => exact fun dr => ih (drawRng lo hi dr).2

/-- Degenerate attempts only move the loop on: to the next draws, with their number counted. -/
theorem signLoop_skip {c : CurveCfg} {h d : Nat} (left j : Nat) :
    ∀ (tries : Nat) (dr : Draws), (∀ i < j, signAttempt c h d (nonceAt 1 c.n i dr) = none) →
      signLoop c h d (left + j) tries dr = signLoop c h d left (tries + j) (drawsAfter 1 c.n j dr) := by
  induction j with
  | zero => exact fun _ _ _ => rfl
  | succ j ih =>
    intro tries dr hnone
    have hfirst : signAttempt c h d (drawRng 1 c.n dr).1 = none := hnone 0 j.succ_pos
    have hrest := ih (tries + 1) (drawRng 1 c.n dr).2 fun i hi => hnone (i + 1) (Nat.succ_lt_succ hi)
    rw [← Nat.add_assoc, signLoop, hfirst]
    dsimp only
    rw [hrest, Nat.add_right_comm, Nat.add_assoc]
    rfl

theorem signLoop_first_good {c : CurveCfg} {h d cap j : Nat} {dr : Draws} {sig : Nat × Nat} (hj : j < cap)
    (hnone : ∀ i < j, signAttempt c h d (nonceAt 1 c.n i dr) = none)
    (hsig : signAttempt c h d (nonceAt 1 c.n j dr) = some sig) :
    signLoop c h d cap 0 dr = ⟨some sig, j + 1, drawsAfter 1 c.n (j + 1) dr⟩ := by
  obtain ⟨left, rfl⟩ : ∃ left, cap = left + 1 + j := ⟨cap - j - 1, by omega⟩
  rw [nonceAt] at hsig
  rw [signLoop_skip _ _ _ _ hnone, signLoop, hsig, drawsAfter_succ, Nat.zero_add]

theorem signLoop_exhausted {c : CurveCfg} {h d cap : Nat} {dr : Draws}
    (hnone : ∀ i < cap, signAttempt c h d (nonceAt 1 c.n i dr) = none) :
    signLoop c h d cap 0 dr = ⟨none, cap, drawsAfter 1 c.n cap dr⟩ := by
  have hskip := signLoop_skip 0 cap 0 dr hnone
  rw [Nat.zero_add] at hskip
  exact hskip

/-- A signature took at least one attempt. -/
theorem signLoop_tries_lt {c : CurveCfg} {h d left tries : Nat} {dr : Draws} {sig : Nat × Nat}
    (hsig : (signLoop c h d left tries dr).sig = some sig) : tries < (signLoop c h d left tries dr).tries := by
  cases left with
  | zero => cases hsig
  | succ left =>
    unfold signLoop
    split
    · exact Nat.lt_succ_self tries
    · exact (Laws.signLoop_tries left (tries + 1) _).1

/-! Verification (R185). -/

/-- The verification equation: u1·G + u2·Q is an affine point, and its x modulo n is r. -/
theorem verifySignature_eq_true_iff {c : CurveCfg} {h r sg : Nat} {q : Point} :
    verifySignature c h r sg q = true ↔
      (1 ≤ r ∧ r < c.n ∧ 1 ≤ sg ∧ sg < c.n) ∧ q.inRange c.p = true ∧
        ∃ w pa pb x y, inv sg c.n = some w ∧ ecMul c (emod (h * w) c.n) c.g = .ok pa ∧
          ecMul c (emod (r * w) c.n) q = .ok pb ∧ ecAdd c pa pb = .ok (.aff x y) ∧ emod x c.n = r := by
  constructor
  · intro hv
    unfold verifySignature at hv
    split at hv
    · cases hv
    · next hrange =>
      split at hv
      · cases hv
      · next w hw =>
        split at hv
        · cases hv
        · next hq =>
          split at hv
          · next pa pb ha hb =>
            split at hv
            · next x y hsum =>
              exact ⟨not_not.mp hrange, not_not.mp hq, w, pa, pb, x, y, hw, ha, hb, hsum, beq_iff_eq.mp hv⟩
            · cases hv
            · cases hv
          · cases hv
  · rintro ⟨hrange, hq, w, pa, pb, x, y, hw, ha, hb, hsum, hx⟩
    rw [verifySignature, if_neg (not_not.mpr hrange), hw]
    dsimp only
    rw [if_neg (not_not.mpr hq), ha, hb]
    dsimp only
    rw [hsum]
    exact beq_iff_eq.mpr hx

/-! Completions in general. -/

theorem applyTo_sameElse (c : Completion) (s : State) : SameElse s (c.applyTo s) :=
  ⟨applyTo_sameOthers c s, rfl⟩

theorem applyTo_completedWith (c : Completion) (s : State) : CompletedWith (c.applyTo s) c.code c.result :=
  ⟨rfl, rfl, rfl, rfl⟩

/-- A completion without a destination changes at most TRIES, the draws and the flags. -/
theorem exec_of_no_destination {i : Instr} {s : State} {c : Completion} (h : s.Ready i)
    (hi : completionOf i s.par s.draws s.operands = c) (hb : c.big = []) (hp : c.pt = []) :
    ∃ t, exec i s = .next t ∧ t.big = s.big ∧ t.pt = s.pt ∧ t.tries = c.tries.getD s.tries ∧ t.draws = c.draws ∧
      SameElse s t ∧ CompletedWith t c.code c.result := by
  refine ⟨c.applyTo s, hi ▸ exec_of_ready h, ?_, ?_, rfl, rfl, applyTo_sameElse c s, applyTo_completedWith c s⟩
  · rw [Completion.applyTo, hb, List.foldl_nil]
  · rw [Completion.applyTo, hp, List.foldl_nil]

/-! ECDSA_KEYGEN (R181). -/

theorem ecdsaKeygen_bad_config (dr : Draws) {c : CurveCfg} (hc : ¬ c.Good) (priv : BReg) (pub : PReg) :
    Completion.ecdsaKeygen dr c priv pub = { draws := dr, code := .badConfig } :=
  if_pos hc

theorem ecdsaKeygen_error {dr dr' : Draws} {c : CurveCfg} {d : Nat} {e : ErrCode} (hc : c.Good)
    (hdraw : drawRng 1 c.n dr = (d, dr')) (he : ecMul c d c.g = .error e) (priv : BReg) (pub : PReg) :
    Completion.ecdsaKeygen dr c priv pub = { draws := dr', code := .notInvertible } := by
  cases Laws.ecMul_error he
  rw [Completion.ecdsaKeygen, if_neg (not_not.mpr hc), hdraw, keygenPoint, he]

theorem ecdsaKeygen_ok {dr dr' : Draws} {c : CurveCfg} {d : Nat} {q : Point} (hc : c.Good)
    (hdraw : drawRng 1 c.n dr = (d, dr')) (hq : ecMul c d c.g = .ok q) (priv : BReg) (pub : PReg) :
    Completion.ecdsaKeygen dr c priv pub = { big := [(priv, d)], pt := [(pub, q)], draws := dr' } := by
  rw [Completion.ecdsaKeygen, if_neg (not_not.mpr hc), hdraw, keygenPoint, hq]

/-- Settles O37, by the three completions of ECDSA_KEYGEN: no word that it needs is unwritten, because it reads no register. -/
theorem ecdsaKeygenCompletes : Obligations.EcdsaKeygenCompletes := by
  intro priv pub s hl
  have hready : s.Ready (.ecdsaKeygen priv pub) := ⟨hl, rfl⟩
  refine ⟨fun hc => exec_of_no_destination hready (ecdsaKeygen_bad_config _ hc priv pub) rfl rfl,
    fun hc d dr hdraw => ?_⟩
  obtain ⟨hd1, hdn⟩ := Laws.drawRng_mem s.draws (good_one_lt_n hc)
  rw [hdraw] at hd1 hdn
  refine ⟨hd1, hdn, fun q hq => ?_, fun e he =>
    exec_of_no_destination hready (ecdsaKeygen_error hc hdraw he priv pub) rfl rfl⟩
  have hexec := exec_of_ready hready
  rw [completionOf, ecdsaKeygen_ok hc hdraw hq] at hexec
  have hb := Laws.holdsBig_writeBig (Laws.legal_words_le hl) priv d
  have hp := Laws.holdsPoint_writePoint (Laws.legal_words_le hl) pub q
  exact ⟨_, hexec, ⟨hb.value, hb.written⟩, ⟨hp.inf, hp.coords, hp.infWritten, hp.xWritten, hp.yWritten⟩,
    Laws.bigSameExcept_writeBig s priv d, Laws.ptSameExcept_writePoint s pub q, rfl, rfl, applyTo_sameElse _ s,
    applyTo_completedWith _ s⟩

/-! ECDSA_SIGN (R180, R183). -/

/-- The completion of ECDSA_SIGN with a signature in its two destinations. -/
def Completion.signed (r sg : BReg) (rv sv tries : Nat) (dr : Draws) : Completion :=
  { big := [(r, rv), (sg, sv)], tries := some (BitVec.ofNat 8 tries), draws := dr }

/-- The completion of ECDSA_SIGN with an error. -/
def Completion.signFailed (code : ErrCode) (tries : Nat) (dr : Draws) : Completion :=
  { tries := some (BitVec.ofNat 8 tries), draws := dr, code := code }

theorem ecdsaSign_alias (dr : Draws) (o : Snapshot) {r sg : BReg} (halias : r = sg) (h priv : BReg) :
    Completion.ecdsaSign dr o r sg h priv = .signFailed .destAlias 0 dr :=
  if_pos halias

theorem ecdsaSign_bad_config (dr : Draws) {o : Snapshot} {r sg : BReg} (hne : r ≠ sg) (hc : ¬ o.cfg.Good)
    (h priv : BReg) : Completion.ecdsaSign dr o r sg h priv = .signFailed .badConfig 0 dr := by
  rw [Completion.ecdsaSign, if_neg hne, if_pos hc]
  rfl

theorem ecdsaSign_operand_range (dr : Draws) {o : Snapshot} {r sg h : BReg} (hne : r ≠ sg) (hc : o.cfg.Good)
    (hh : 2 ^ 256 ≤ o.b h) (priv : BReg) :
    Completion.ecdsaSign dr o r sg h priv = .signFailed .operandRange 0 dr := by
  rw [Completion.ecdsaSign, if_neg hne, if_neg (not_not.mpr hc), Config.digestBound, if_pos hh]
  rfl

theorem ecdsaSign_loops (dr : Draws) {o : Snapshot} {r sg h : BReg} (hne : r ≠ sg) (hc : o.cfg.Good)
    (hh : o.b h < 2 ^ 256) (priv : BReg) :
    Completion.ecdsaSign dr o r sg h priv =
      .ofSignRun r sg (signLoop o.cfg (o.b h) (o.b priv) o.signmax.toNat 0 dr) := by
  rw [Completion.ecdsaSign, if_neg hne, if_neg (not_not.mpr hc), Config.digestBound, if_neg (Nat.not_le_of_lt hh)]

theorem ofSignRun_some (r sg : BReg) (rv sv tries : Nat) (dr : Draws) :
    Completion.ofSignRun r sg ⟨some (rv, sv), tries, dr⟩ = .signed r sg rv sv tries dr := rfl

theorem ofSignRun_none (r sg : BReg) (tries : Nat) (dr : Draws) :
    Completion.ofSignRun r sg ⟨none, tries, dr⟩ = .signFailed .retryExhausted tries dr := rfl

/-- SIGNMAX bounds the attempts, so TRIES holds their number (R38, R39). -/
theorem signed_tries (s : State) (r sg : BReg) (rv sv : Nat) (dr : Draws) {n : Nat} {cap : BitVec 8}
    (hn : n ≤ cap.toNat) : ((Completion.signed r sg rv sv n dr).applyTo s).tries.toNat = n := by
  show (BitVec.ofNat 8 n).toNat = n
  rw [BitVec.toNat_ofNat, Nat.mod_eq_of_lt (hn.trans_lt cap.isLt)]

theorem signed_big (s : State) (r sg : BReg) (rv sv tries : Nat) (dr : Draws) :
    ((Completion.signed r sg rv sv tries dr).applyTo s).big = ((s.writeBig r rv).writeBig sg sv).big := rfl

theorem signed_values (s : State) {r sg : BReg} (hne : r ≠ sg) (rv sv tries : Nat) (dr : Draws) :
    ((Completion.signed r sg rv sv tries dr).applyTo s).big[r].value = rv ∧
      ((Completion.signed r sg rv sv tries dr).applyTo s).big[sg].value = sv := by
  simp only [signed_big, Laws.getElem_writeBig, if_neg hne, if_true, Laws.full_value, and_self]

/-- Settles O39: the loop ends at the first good nonce, and its two writes keep each other's register. -/
theorem ecdsaSignTakesTheFirstGoodNonce : Obligations.EcdsaSignTakesTheFirstGoodNonce := by
  intro r sg h priv s j rv sv hready hne hc hh hj hnone hsig
  have hexec := exec_of_ready hready
  rw [completionOf, ecdsaSign_loops _ hne hc hh, signLoop_first_good hj hnone hsig, ofSignRun_some] at hexec
  have hwords := Laws.legal_words_le hready.1
  have hr := Laws.holdsBig_writeBig_ne hne (v := sv) (Laws.holdsBig_writeBig hwords r rv)
  have hs := Laws.holdsBig_writeBig (s := s.writeBig r rv) hwords sg sv
  exact ⟨_, hexec, ⟨hr.value, hr.written⟩, ⟨hs.value, hs.written⟩,
    applyTo_big_of_within (ofSignRun_within r sg ⟨some (rv, sv), _, _⟩) s, rfl,
    signed_tries s r sg rv sv _ hj, rfl, applyTo_sameElse _ s, applyTo_completedWith _ s⟩

/-- Settles O40: the three checks before the loop, then the loop with no good nonce. -/
theorem ecdsaSignErrors : Obligations.EcdsaSignErrors := by
  intro r sg h priv s hready
  refine ⟨fun code hcode => ?_, fun hne hc hh hnone => ?_⟩
  · have hfail : Completion.ecdsaSign s.draws s.operands r sg h priv = .signFailed code 0 s.draws := by
      rcases hcode with ⟨halias, rfl⟩ | ⟨hne, hc, rfl⟩ | ⟨hne, hc, hh, rfl⟩
      · exact ecdsaSign_alias _ _ halias h priv
      · exact ecdsaSign_bad_config _ hne hc h priv
      · exact ecdsaSign_operand_range _ hne hc hh priv
    exact exec_of_no_destination hready hfail rfl rfl
  · have hfail := ecdsaSign_loops s.draws hne hc hh priv
    rw [signLoop_exhausted hnone, ofSignRun_none] at hfail
    have hcap : BitVec.ofNat 8 s.operands.signmax.toNat = s.operands.signmax := by simp
    obtain ⟨t, hexec, hbig, hpt, htries, hrest⟩ := exec_of_no_destination hready hfail rfl rfl
    exact ⟨t, hexec, hbig, hpt, htries.trans hcap, hrest⟩

theorem ofSignRun_eq_signed {r sg : BReg} {run : SignRun} (hcode : (Completion.ofSignRun r sg run).code = .none) :
    ∃ rv sv, run.sig = some (rv, sv) ∧ Completion.ofSignRun r sg run = .signed r sg rv sv run.tries run.draws := by
  obtain ⟨_ | ⟨rv, sv⟩, tries, dr⟩ := run
  · cases hcode
  · exact ⟨rv, sv, rfl, rfl⟩

/-- An ECDSA_SIGN without an error wrote the signature of one attempt, within SIGNMAX attempts (R183). -/
theorem ecdsaSign_eq_signed {dr : Draws} {o : Snapshot} {r sg h priv : BReg}
    (hcode : (Completion.ecdsaSign dr o r sg h priv).code = .none) :
    r ≠ sg ∧ o.cfg.Good ∧ ∃ k rv sv tries dr', signAttempt o.cfg (o.b h) (o.b priv) k = some (rv, sv) ∧
      1 ≤ tries ∧ tries ≤ o.signmax.toNat ∧
      Completion.ecdsaSign dr o r sg h priv = .signed r sg rv sv tries dr' := by
  have hne : r ≠ sg := fun halias => by
    rw [ecdsaSign_alias dr o halias] at hcode
    cases hcode
  have hc : o.cfg.Good := by_contra fun hbad => by
    rw [ecdsaSign_bad_config dr hne hbad] at hcode
    cases hcode
  have hh : o.b h < 2 ^ 256 := Nat.lt_of_not_le fun hbig => by
    rw [ecdsaSign_operand_range dr hne hc hbig] at hcode
    cases hcode
  rw [ecdsaSign_loops dr hne hc hh] at hcode ⊢
  obtain ⟨rv, sv, hsig, heq⟩ := ofSignRun_eq_signed hcode
  obtain ⟨k, hattempt⟩ := Laws.signLoop_some _ _ _ hsig
  have hle := (Laws.signLoop_tries (c := o.cfg) (h := o.b h) (d := o.b priv) o.signmax.toNat 0 dr).2
  rw [Nat.zero_add] at hle
  exact ⟨hne, hc, k, rv, sv, _, _, hattempt, signLoop_tries_lt hsig, hle, heq⟩

theorem values_cfg (s : State) (i : Instr) : (s.values i).cfg = s.operands.cfg := by
  unfold State.values
  split <;> rfl

theorem values_signmax (s : State) (i : Instr) : (s.values i).signmax = s.operands.signmax := by
  unfold State.values
  split <;> rfl

/-- Settles O41: an attempt gives residues modulo n that are not zero, and the loop makes at least one and at most SIGNMAX. -/
theorem signaturesAreInRange : Obligations.SignaturesAreInRange := by
  intro r sg h priv s t hexec herr
  rw [exec_next_iff, completionOf] at hexec
  subst hexec
  obtain ⟨hne, hc, k, rv, sv, tries, dr, hsig, hpos, hle, heq⟩ := ecdsaSign_eq_signed herr
  obtain ⟨hr1, hrn, hs1, hsn⟩ := Laws.signAttempt_lt (Nat.zero_lt_of_lt (good_one_lt_n hc)) hsig
  obtain ⟨hr, hs⟩ := signed_values (s.prepared (.ecdsaSign r sg h priv)) hne rv sv tries dr
  rw [heq, hr, hs, signed_tries _ r sg rv sv dr hle]
  rw [values_cfg] at hrn hsn
  rw [values_signmax] at hle
  exact ⟨hr1, hrn, hs1, hsn, hpos, hle⟩

/-! ECDSA_VERIFY (R180, R185, R186). -/

theorem ecdsaVerify_bad_config {c : CurveCfg} (hc : ¬ c.Good) (h r sg : Nat) (q : Point) :
    ecdsaVerify c h r sg q = .error .badConfig :=
  if_pos hc

theorem ecdsaVerify_operand_range {c : CurveCfg} {h : Nat} (hc : c.Good) (hh : 2 ^ 256 ≤ h) (r sg : Nat) (q : Point) :
    ecdsaVerify c h r sg q = .error .operandRange := by
  rw [ecdsaVerify, if_neg (not_not.mpr hc), Config.digestBound, if_pos hh]

theorem ecdsaVerify_ok {c : CurveCfg} {h : Nat} (hc : c.Good) (hh : h < 2 ^ 256) (r sg : Nat) (q : Point) :
    ecdsaVerify c h r sg q = .ok (verifySignature c h r sg q) := by
  rw [ecdsaVerify, if_neg (not_not.mpr hc), Config.digestBound, if_neg (Nat.not_le_of_lt hh)]

/-- Settles O42: the two checks, then the boolean that `verifySignature_eq_true_iff` spells out. -/
theorem ecdsaVerifyIsTotal : Obligations.EcdsaVerifyIsTotal := by
  intro h r sg pub s hready
  have hcompletes {e} (he : ecdsaVerify s.operands.cfg (s.operands.b h) (s.operands.b r) (s.operands.b sg)
      (s.operands.p pub) = e) :
      completionOf (.ecdsaVerify h r sg pub) s.par s.draws s.operands = .ofBool s.draws e :=
    congrArg (Completion.ofBool s.draws) he
  refine ⟨fun hc => exec_of_no_destination hready (hcompletes (ecdsaVerify_bad_config hc _ _ _ _)) rfl rfl,
    fun hc hh => exec_of_no_destination hready (hcompletes (ecdsaVerify_operand_range hc hh _ _ _)) rfl rfl,
    fun hc hh => ⟨_, exec_of_no_destination hready (hcompletes (ecdsaVerify_ok hc hh _ _ _)) rfl rfl, ?_⟩⟩
  have hmod (a w : Nat) : emod ((a : Int) * w) s.operands.cfg.n = a * w % s.operands.cfg.n := by
    exact_mod_cast Laws.emod_natCast (a * w) s.operands.cfg.n
  have hinv (w : Nat) := (inv_natCast_eq_some_iff (good_one_lt_n hc) (s.operands.b sg) w).trans and_comm
  show verifySignature _ _ _ _ _ = true ↔ _
  simp only [verifySignature_eq_true_iff, hinv, hmod, Laws.emod_natCast, and_assoc]

end Sys2Proof.Proofs
end

section
/-! The RSA controller: signing and verification as equations of naturals (R213, R215), strip_match in terms of the bytes of the
candidate (R216), the key and how its exponents cancel (R211, R217), and how each command of the family completes (R210 to
R217). -/

namespace Sys2Proof.Proofs

open Sys2Proof.Machine

/-! RSA_SIGN (R210, R213). -/

theorem rsaSignature_not_odd (h d : Nat) {n : Nat} (hn : ¬ OddModulus n) : rsaSignature h d n = .error .badModulus :=
  if_pos hn

theorem rsaSignature_operand_range {h n : Nat} (hn : OddModulus n) (hh : 2 ^ 256 ≤ h) (d : Nat) :
    rsaSignature h d n = .error .operandRange := by
  rw [rsaSignature, if_neg (not_not.mpr hn), Config.digestBound, if_pos hh]

theorem rsaSignature_eq_ok {h n : Nat} (hn : OddModulus n) (hh : h < 2 ^ 256) (d : Nat) :
    rsaSignature h d n = .ok (h ^ d % n) := by
  rw [rsaSignature, if_neg (not_not.mpr hn), Config.digestBound, if_neg (Nat.not_le_of_lt hh),
    Laws.powMod_eq h d (Nat.zero_lt_of_lt hn.2)]

/-- Settles O44, by the two checks and what square and multiply computes. -/
theorem rsaSignExponentiates : Obligations.RsaSignExponentiates := fun _ _ _ _ _ hready =>
  ⟨fun hn => failsWith_of_ready hready rfl (rsaSignature_not_odd _ _ ((not_oddModulus_iff _).mpr hn)),
    fun ho h3 hh => failsWith_of_ready hready rfl (rsaSignature_operand_range ⟨ho, h3⟩ hh _),
    fun ho h3 hh => writesBig_of_ready hready rfl (rsaSignature_eq_ok ⟨ho, h3⟩ hh _)⟩

/-! RSA_VERIFY (R210, R215). -/

theorem rsaVerify_not_odd (strip : Bool) (h sig : Nat) {n : Nat} (hn : ¬ OddModulus n) :
    rsaVerify strip h sig n = .error .badModulus :=
  if_pos hn

theorem rsaVerify_operand_range (strip : Bool) {h n : Nat} (hn : OddModulus n) (hh : 2 ^ 256 ≤ h) (sig : Nat) :
    rsaVerify strip h sig n = .error .operandRange := by
  rw [rsaVerify, if_neg (not_not.mpr hn), Config.digestBound, if_pos hh]

theorem rsaVerify_eq_ok (strip : Bool) {h n : Nat} (hn : OddModulus n) (hh : h < 2 ^ 256) (sig : Nat) :
    rsaVerify strip h sig n = .ok (if strip then stripMatch (sig ^ 65537 % n) h else sig ^ 65537 % n == h) := by
  rw [rsaVerify, if_neg (not_not.mpr hn), Config.digestBound, if_neg (Nat.not_le_of_lt hh),
    Laws.powMod_eq sig _ (Nat.zero_lt_of_lt hn.2), Config.rsaExponent]
  cases strip <;> rfl

/-- Settles O45, by the two checks and the comparison that the flag selects. -/
theorem rsaVerifyCompares : Obligations.RsaVerifyCompares := by
  intro strip h sig n s hready
  have hcompletes {e} (he : rsaVerify strip (s.operands.b h) (s.operands.b sig) (s.operands.b n) = e) :
      completionOf (.rsaVerify strip h sig n) s.par s.draws s.operands = .ofBool s.draws e :=
    congrArg (Completion.ofBool s.draws) he
  refine ⟨fun hn => ?_, fun ho h3 hh => ?_, fun ho h3 hh => ⟨_,
    exec_of_no_destination hready (hcompletes (rsaVerify_eq_ok strip ⟨ho, h3⟩ hh _)) rfl rfl, ?_, ?_⟩⟩
  · exact exec_of_no_destination hready
      (hcompletes (rsaVerify_not_odd strip _ _ ((not_oddModulus_iff _).mpr hn))) rfl rfl
  · exact exec_of_no_destination hready (hcompletes (rsaVerify_operand_range strip ⟨ho, h3⟩ hh _)) rfl rfl
  · rintro rfl
    exact beq_iff_eq
  · rintro rfl
    rfl

/-! Big-endian bytes: the value of a string of bytes, and the one string of a length with a value (R216). -/

theorem digestValue_append_singleton (l : List Byte) (b : Byte) :
    digestValue (l ++ [b]) = 256 * digestValue l + b.toNat := by
  simp [digestValue]

theorem bytesOfLength_succ (n v : Nat) :
    bytesOfLength (n + 1) v = bytesOfLength n (v / 256) ++ [BitVec.ofNat 8 v] := by
  have hlast : v / 256 ^ (n + 1 - 1 - n) = v := by simp
  rw [bytesOfLength, List.range_succ, List.map_append, List.map_singleton, hlast, bytesOfLength]
  congr 1
  refine List.map_congr_left fun i hi => ?_
  have hexp : n + 1 - 1 - i = n - 1 - i + 1 := by have := List.mem_range.mp hi; omega
  rw [hexp, pow_succ', Nat.div_div_eq_div_mul]

theorem digestValue_bytesOfLength (n v : Nat) : digestValue (bytesOfLength n v) = v % 256 ^ n := by
  induction n generalizing v with
  | zero => rw [pow_zero, Nat.mod_one]; rfl
  | succ n ih =>
    have hsplit : v % 256 ^ (n + 1) = v % 256 + 256 * (v / 256 % 256 ^ n) := by rw [pow_succ', Nat.mod_mul]
    rw [bytesOfLength_succ, digestValue_append_singleton, ih, BitVec.toNat_ofNat, hsplit]
    omega

theorem bytesOfLength_digestValue (l : List Byte) : bytesOfLength l.length (digestValue l) = l := by
  induction l using List.reverseRecOn with
  | nil => rfl
  | append_singleton l b ih =>
    have hdiv : (256 * digestValue l + b.toNat) / 256 = digestValue l := by have := b.isLt; omega
    have hlow : BitVec.ofNat 8 (256 * digestValue l + b.toNat) = b := by
      apply BitVec.eq_of_toNat_eq
      rw [BitVec.toNat_ofNat]
      have := b.isLt
      omega
    rw [List.length_append, List.length_singleton, digestValue_append_singleton, bytesOfLength_succ, hdiv, hlow, ih]

theorem digestValue_lt (l : List Byte) : digestValue l < 256 ^ l.length := by
  have h := digestValue_bytesOfLength l.length (digestValue l)
  rw [bytesOfLength_digestValue] at h
  exact h ▸ Nat.mod_lt _ (Nat.pow_pos (by decide))

theorem eq_bytesOfLength_iff {n v : Nat} (hv : v < 256 ^ n) (l : List Byte) :
    l = bytesOfLength n v ↔ l.length = n ∧ digestValue l = v := by
  constructor
  · rintro rfl
    exact ⟨Laws.bytesOfLength_length n v, (digestValue_bytesOfLength n v).trans (Nat.mod_eq_of_lt hv)⟩
  · rintro ⟨rfl, rfl⟩
    exact (bytesOfLength_digestValue l).symm

/-! The minimal bytes (R216). -/

theorem lt_pow_minimalBytes_length (v : Nat) : v < 256 ^ (minimalBytes v).length := by
  have hbits : bitlen v ≤ 8 * ((bitlen v + 7) / 8) := by omega
  rw [minimalBytes, Laws.bytesOfLength_length]
  calc v < 2 ^ bitlen v := Laws.lt_two_pow_bitlen v
    _ ≤ 2 ^ (8 * ((bitlen v + 7) / 8)) := Nat.pow_le_pow_right Nat.zero_lt_two hbits
    _ = 256 ^ ((bitlen v + 7) / 8) := pow_mul 2 8 _

theorem digestValue_minimalBytes (v : Nat) : digestValue (minimalBytes v) = v := by
  have hlt := lt_pow_minimalBytes_length v
  rw [minimalBytes, Laws.bytesOfLength_length] at hlt
  rw [minimalBytes, digestValue_bytesOfLength, Nat.mod_eq_of_lt hlt]

/-- After a first byte of 0 the value would fit in the rest, and the minimal bytes are no longer than that. -/
theorem minimalBytes_head_ne_zero {v : Nat} {b : Byte} {rest : List Byte} (h : minimalBytes v = b :: rest) : b ≠ 0 := by
  rintro rfl
  have hv : v < 256 ^ rest.length := calc
    v = digestValue (0 :: rest) := by rw [← h, digestValue_minimalBytes]
    _ = digestValue rest := rfl
    _ < 256 ^ rest.length := digestValue_lt rest
  have hlen := Laws.minimalBytes_length_le hv
  rw [h, List.length_cons] at hlen
  exact Nat.not_succ_le_self _ hlen

/-! strip_match (R216). -/

theorem stripMatch_eq_true_iff (cand h : Nat) :
    stripMatch cand h = true ↔
      ∃ pre, minimalBytes cand = pre ++ 0 :: bytesOfLength 32 h ∧ ∀ b ∈ pre, b ≠ 0 := by
  constructor
  · intro hmatch
    unfold stripMatch at hmatch
    split at hmatch
    · cases hmatch
    · next b tail hdrop =>
      have hb : b = 0 := by
        have hhead := List.head?_dropWhile_not (· != 0) (minimalBytes cand)
        rw [hdrop, List.head?_cons] at hhead
        simpa using hhead
      refine ⟨(minimalBytes cand).takeWhile (· != 0), ?_, fun b hmem => ?_⟩
      · rw [hb, beq_iff_eq.mp hmatch] at hdrop
        rw [← hdrop, List.takeWhile_append_dropWhile]
      · simpa using List.mem_takeWhile_imp hmem
  · rintro ⟨pre, hbytes, hpre⟩
    have hdrop : (minimalBytes cand).dropWhile (· != 0) = 0 :: bytesOfLength 32 h := by
      rw [hbytes, List.dropWhile_append_of_pos fun b hmem => bne_iff_ne.mpr (hpre b hmem),
        List.dropWhile_cons_of_neg (by decide)]
    rw [stripMatch, hdrop]
    exact beq_self_eq_true _

/-- A match takes 33 bytes or more, so no candidate of 256 bits matches. -/
theorem stripMatch_eq_false {cand : Nat} (hcand : cand < 2 ^ 256) (h : Nat) : stripMatch cand h = false := by
  rw [Bool.eq_false_iff]
  intro hmatch
  obtain ⟨pre, hbytes, -⟩ := (stripMatch_eq_true_iff cand h).mp hmatch
  have hlen := Laws.minimalBytes_length_le (v := cand) (n := 32) (hcand.trans_eq (pow_mul 2 8 32))
  rw [hbytes, List.length_append, List.length_cons, Laws.bytesOfLength_length] at hlen
  omega

/-- Settles O46: the digest's bytes are the one string of 32 bytes with its value. -/
theorem stripMatchComparesTheTail : Obligations.StripMatchComparesTheTail := by
  intro cand h hh
  refine ⟨digestValue_minimalBytes cand, fun b rest => minimalBytes_head_ne_zero, ?_⟩
  have hdigest := eq_bytesOfLength_iff (n := 32) (hh.trans_eq (pow_mul 2 8 32))
  rw [stripMatch_eq_true_iff]
  constructor
  · rintro ⟨pre, hbytes, hpre⟩
    exact ⟨pre, _, hbytes, hpre, (hdigest _).mp rfl⟩
  · rintro ⟨pre, tail, hbytes, hpre, htail⟩
    exact ⟨pre, (hdigest tail).mpr htail ▸ hbytes, hpre⟩

/-! The key of two primes (R211, R212). -/

theorem rsaKey_error {p q : Nat} (h : (p - 1) * (q - 1) < 2 ∨ Nat.gcd 65537 ((p - 1) * (q - 1)) ≠ 1) :
    rsaKey p q = .error .expNotInvertible := by
  unfold rsaKey
  split_ifs with hsmall
  · rfl
  · have hgcd := h.resolve_left hsmall
    have hinv : inv Config.rsaExponent ((p - 1) * (q - 1)) = none :=
      (Laws.inv_eq_none_iff (not_lt.mp hsmall)).mpr (mt (Laws.coprime_emod_iff _ _).mp hgcd)
    rw [hinv]

theorem rsaKey_exists {p q : Nat} (h2 : 2 ≤ (p - 1) * (q - 1)) (hgcd : Nat.gcd 65537 ((p - 1) * (q - 1)) = 1) :
    ∃ d, rsaKey p q = .ok (p * q, d) := by
  have hsome : (inv Config.rsaExponent ((p - 1) * (q - 1))).isSome :=
    (Laws.inv_isSome_iff h2).mpr ((Laws.coprime_emod_iff _ _).mpr hgcd)
  obtain ⟨d, hd⟩ := Option.isSome_iff_exists.mp hsome
  exact ⟨d, by rw [rsaKey, if_neg (not_lt.mpr h2), hd]⟩

/-- R212: E·d is 1 modulo (p-1)(q-1). -/
theorem rsaKey_exponent {p q n d : Nat} (h : rsaKey p q = .ok (n, d)) : 65537 * d % ((p - 1) * (q - 1)) = 1 := by
  unfold rsaKey at h
  split_ifs at h with hsmall
  split at h
  · cases h
  · next x hx =>
    cases h
    exact ((inv_natCast_eq_some_iff (not_lt.mp hsmall) _ _).mp hx).2

/-! The round trip (R217): by Fermat modulo each prime, and then modulo their product. -/

theorem pow_modEq_self {p k : Nat} (hp : Nat.Prime p) (hk : 1 ≤ k) (hdvd : p - 1 ∣ k - 1) (h : Nat) :
    h ^ k ≡ h [MOD p] := by
  rw [← Int.natCast_modEq_iff, Nat.cast_pow]
  simpa using Int.ModEq.pow_eq_pow hp hdvd hk Nat.one_pos h

theorem pow_modEq_self_mul {p q k : Nat} (hp : Nat.Prime p) (hq : Nat.Prime q) (hne : p ≠ q)
    (hk : k % ((p - 1) * (q - 1)) = 1) (h : Nat) : h ^ k ≡ h [MOD p * q] := by
  have hk1 : 1 ≤ k := hk ▸ Nat.mod_le _ _
  have hdvd : (p - 1) * (q - 1) ∣ k - 1 := by
    have hsub := Nat.dvd_sub_mod (n := (p - 1) * (q - 1)) k
    rwa [hk] at hsub
  exact (Nat.modEq_and_modEq_iff_modEq_mul ((Nat.coprime_primes hp hq).mpr hne)).mp
    ⟨pow_modEq_self hp hk1 (dvd_of_mul_right_dvd hdvd) h, pow_modEq_self hq hk1 (dvd_of_mul_left_dvd hdvd) h⟩

/-- Exponents that are inverses modulo (p-1)(q-1) undo each other. -/
theorem pow_mod_pow_mod {p q e d : Nat} (hp : Nat.Prime p) (hq : Nat.Prime q) (hne : p ≠ q)
    (hinv : e * d % ((p - 1) * (q - 1)) = 1) (h : Nat) : (h ^ d % (p * q)) ^ e % (p * q) = h % (p * q) := by
  rw [← Nat.pow_mod, ← pow_mul, mul_comm d]
  exact pow_modEq_self_mul hp hq hne hinv h

theorem rsaKey_cancels {p q n d : Nat} (hp : Nat.Prime p) (hq : Nat.Prime q) (hne : p ≠ q)
    (hkey : rsaKey p q = .ok (n, d)) (h : Nat) : (h ^ d % n) ^ 65537 % n = h % n := by
  obtain ⟨rfl, -⟩ := rsaKey_ok hkey
  exact pow_mod_pow_mod hp hq hne (rsaKey_exponent hkey) h

theorem oddModulus_mul {p q : Nat} (hp : Nat.Prime p) (hq : Nat.Prime q) (hpo : p % 2 = 1) (hqo : q % 2 = 1) :
    OddModulus (p * q) := by
  have hp2 := hp.two_le
  refine ⟨Nat.odd_iff.mp ((Nat.odd_iff.mpr hpo).mul (Nat.odd_iff.mpr hqo)), ?_⟩
  calc 3 ≤ p := by omega
    _ ≤ p * q := Nat.le_mul_of_pos_right p hq.pos

/-- Settles O47: the candidate is the digest modulo n, and it has at most 32 bytes. -/
theorem rsaRoundTrip : Obligations.RsaRoundTrip := by
  intro p q n d h hp hq hne hpo hqo hkey hh
  have hn : OddModulus n := (rsaKey_ok hkey).1 ▸ oddModulus_mul hp hq hpo hqo
  have hverify (strip : Bool) := rsaVerify_eq_ok strip hn hh (h ^ d % n)
  rw [rsaKey_cancels hp hq hne hkey] at hverify
  refine ⟨_, rsaSignature_eq_ok hn hh d, fun hlt => ?_, fun hle => ?_, ?_⟩
  · rw [hverify, Nat.mod_eq_of_lt hlt]
    exact congrArg Except.ok (beq_self_eq_true h)
  · have hmod : h % n < n := Nat.mod_lt h (Nat.zero_lt_of_lt hn.2)
    rw [hverify]
    exact congrArg Except.ok (beq_eq_false_iff_ne.mpr (hmod.trans_le hle).ne)
  · rw [hverify]
    exact congrArg Except.ok (stripMatch_eq_false ((Nat.mod_le h n).trans_lt hh) h)

/-! RSA_KEYGEN (R210, R211). -/

theorem goodPrime_eq_none {par : Params} {a : Option Nat} (h : ∀ p, a = some p → p < 2 ∨ 2 ^ par.pbits ≤ p) :
    goodPrime par a = none := by
  cases a with
  | none => rfl
  | some p =>
    have hp := h p rfl
    exact if_neg (by omega)

theorem goodPrime_eq_some {par : Params} {p : Nat} (h2 : 2 ≤ p) (hp : p < 2 ^ par.pbits) :
    goodPrime par (some p) = some p :=
  if_pos ⟨h2, hp⟩

theorem rsaGenerate_first_bad {par : Params} {dr dr1 : Draws} {a1 : Option Nat} (hdraw : drawPrime par dr = (a1, dr1))
    (hbad : goodPrime par a1 = none) : rsaGenerate par dr = (.error .primeGenFail, dr1) := by
  rw [rsaGenerate, hdraw, hbad]

theorem rsaGenerate_second_bad {par : Params} {dr dr1 dr2 : Draws} {a1 a2 : Option Nat} {p : Nat}
    (hdraw1 : drawPrime par dr = (a1, dr1)) (hdraw2 : drawPrime par dr1 = (a2, dr2))
    (hgood : goodPrime par a1 = some p) (hbad : goodPrime par a2 = none) :
    rsaGenerate par dr = (.error .primeGenFail, dr2) := by
  rw [rsaGenerate, hdraw1, hgood]
  simp only [hdraw2, hbad]

theorem rsaGenerate_good {par : Params} {dr dr1 dr2 : Draws} {a1 a2 : Option Nat} {p q : Nat}
    (hdraw1 : drawPrime par dr = (a1, dr1)) (hdraw2 : drawPrime par dr1 = (a2, dr2))
    (hgood1 : goodPrime par a1 = some p) (hgood2 : goodPrime par a2 = some q) :
    rsaGenerate par dr = (rsaKey p q, dr2) := by
  rw [rsaGenerate, hdraw1, hgood1]
  simp only [hdraw2, hgood2]

theorem rsaKeygen_alias (par : Params) (dr : Draws) {n d : BReg} (halias : n = d) :
    Completion.rsaKeygen par dr n d = { draws := dr, code := .destAlias } :=
  if_pos halias

theorem rsaKeygen_error {par : Params} {dr dr' : Draws} {n d : BReg} {code : ErrCode} (hne : n ≠ d)
    (hgen : rsaGenerate par dr = (.error code, dr')) :
    Completion.rsaKeygen par dr n d = { draws := dr', code := code } := by
  rw [Completion.rsaKeygen, if_neg hne, hgen]

theorem rsaKeygen_ok {par : Params} {dr dr' : Draws} {n d : BReg} {nv dv : Nat} (hne : n ≠ d)
    (hgen : rsaGenerate par dr = (.ok (nv, dv), dr')) :
    Completion.rsaKeygen par dr n d = { big := [(n, nv), (d, dv)], draws := dr' } := by
  rw [Completion.rsaKeygen, if_neg hne, hgen]

/-- Settles O43, by what the two draws give: no word that the command needs is unwritten, because it reads no register. -/
theorem rsaKeygenCompletes : Obligations.RsaKeygenCompletes := by
  intro n d s hl
  have hready : s.Ready (.rsaKeygen n d) := ⟨hl, rfl⟩
  refine ⟨fun halias => exec_of_no_destination hready (rsaKeygen_alias _ _ halias) rfl rfl,
    fun hne a1 a2 dr1 dr2 hdraw1 hdraw2 => ?_⟩
  have hfails {dr' code} (hgen : rsaGenerate s.par s.draws = (.error code, dr')) :=
    exec_of_no_destination hready (rsaKeygen_error hne hgen) rfl rfl
  refine ⟨fun hbad => hfails (rsaGenerate_first_bad hdraw1 (goodPrime_eq_none hbad)), ?_⟩
  rintro p rfl hp2 hp
  have hgood1 := goodPrime_eq_some hp2 hp
  refine ⟨fun hbad => hfails (rsaGenerate_second_bad hdraw1 hdraw2 hgood1 (goodPrime_eq_none hbad)), ?_⟩
  rintro q rfl hq2 hq
  have hgen := rsaGenerate_good hdraw1 hdraw2 hgood1 (goodPrime_eq_some hq2 hq)
  refine ⟨fun hbad => hfails (rsaKey_error hbad ▸ hgen), fun h2 hgcd => ?_⟩
  obtain ⟨dv, hkey⟩ := rsaKey_exists h2 hgcd
  have hexec := exec_of_ready hready
  rw [completionOf, rsaKeygen_ok hne (hkey ▸ hgen)] at hexec
  have hwords := Laws.legal_words_le hl
  have hn := Laws.holdsBig_writeBig_ne hne (v := dv) (Laws.holdsBig_writeBig hwords n (p * q))
  have hd := Laws.holdsBig_writeBig (s := s.writeBig n (p * q)) hwords d dv
  exact ⟨_, dv, hexec, (rsaKey_ok hkey).2, rsaKey_exponent hkey, ⟨hn.value, hn.written⟩, ⟨hd.value, hd.written⟩,
    (exec_destinations hexec).1, rfl, rfl, rfl, applyTo_sameElse _ s, applyTo_completedWith _ s⟩

end Sys2Proof.Proofs
end

section
/-! The errors of a completion: which command raises which code (R241), and that a completion with an error writes no
destination (R240). -/

namespace Sys2Proof.Proofs

open Sys2Proof.Machine

/-! The errors that an operation answers. -/

/-- Every error that the operation answers is one that R241 lists for the opcode. -/
def RaisesOnlyListed {α : Type} (o : Opcode) (e : Except ErrCode α) : Prop :=
  ∀ code, e = .error code → o ∈ raisedBy code

theorem raises_ok {α : Type} (o : Opcode) (v : α) : RaisesOnlyListed o (.ok v) := nofun

theorem raises_error {α : Type} {o : Opcode} {code : ErrCode} (h : o ∈ raisedBy code) :
    RaisesOnlyListed (α := α) o (.error code) := by
  intro _ he
  cases he
  exact h

theorem raises_of_error_eq {α : Type} {o : Opcode} {code : ErrCode} {e : Except ErrCode α}
    (h : ∀ {code'}, e = .error code' → code' = code) (ho : o ∈ raisedBy code) : RaisesOnlyListed o e :=
  fun _ he => h he ▸ ho

/-- A check in front of an operation: its failure and the operation itself raise what R241 lists. -/
theorem raises_ite {α : Type} {o : Opcode} {P : Prop} [Decidable P] {a b : Except ErrCode α}
    (ha : RaisesOnlyListed o a) (hb : RaisesOnlyListed o b) : RaisesOnlyListed o (if P then a else b) := by
  split
  · exact ha
  · exact hb

/-! The modular group checks the modulus, MONTMUL then the operands, and MODINV the inverse (R111, R121, R123). -/

theorem modAdd_raises (a b m : Nat) : RaisesOnlyListed .modadd (modAdd a b m) :=
  raises_ite (raises_ok _ _) (raises_error (by decide))

theorem modSub_raises (a b m : Nat) : RaisesOnlyListed .modsub (modSub a b m) :=
  raises_ite (raises_ok _ _) (raises_error (by decide))

theorem modMul_raises (a b m : Nat) : RaisesOnlyListed .modmul (modMul a b m) :=
  raises_ite (raises_ok _ _) (raises_error (by decide))

theorem montMul_raises (a b m : Nat) : RaisesOnlyListed .montmul (montMul a b m) :=
  raises_ite (raises_error (by decide)) (raises_ite (raises_error (by decide)) (raises_ok _ _))

theorem modRed_raises (a m : Nat) : RaisesOnlyListed .modred (modRed a m) :=
  raises_ite (raises_ok _ _) (raises_error (by decide))

theorem modInv_raises (a m : Nat) : RaisesOnlyListed .modinv (modInv a m) := by
  refine raises_ite ?_ (raises_error (by decide))
  split
  · exact raises_ok _ _
  · exact raises_error (by decide)

theorem modExp_raises (base exp m : Nat) : RaisesOnlyListed .modexp (modExp base exp m) :=
  raises_ite (raises_ok _ _) (raises_error (by decide))

/-! The point commands check the configuration, then the range; the group operation fails only with NOT_INVERTIBLE (R151). -/

theorem pointAdd_raises (c : CurveCfg) (p q : Point) : RaisesOnlyListed .ecadd (pointAdd c p q) :=
  raises_ite (raises_error (by decide))
    (raises_ite (raises_error (by decide)) (raises_of_error_eq Laws.ecAdd_error (by decide)))

theorem pointDouble_raises (c : CurveCfg) (p : Point) : RaisesOnlyListed .ecdbl (pointDouble c p) :=
  raises_ite (raises_error (by decide))
    (raises_ite (raises_error (by decide)) (raises_of_error_eq Laws.ecDbl_error (by decide)))

theorem pointMul_raises (c : CurveCfg) (k : Nat) (p : Point) : RaisesOnlyListed .ecmul (pointMul c k p) :=
  raises_ite (raises_error (by decide))
    (raises_ite (raises_error (by decide)) (raises_of_error_eq Laws.ecMul_error (by decide)))

theorem pointCheck_raises (c : CurveCfg) (p : Point) : RaisesOnlyListed .ecchk (pointCheck c p) :=
  raises_ite (raises_error (by decide)) (raises_ok _ _)

/-! The two controllers check the configuration or the modulus, then the digest (R180, R210). -/

theorem keygenPoint_raises (c : CurveCfg) (d : Nat) : RaisesOnlyListed .ecdsaKeygen (keygenPoint c d) :=
  raises_of_error_eq Laws.ecMul_error (by decide)

theorem ecdsaVerify_raises (c : CurveCfg) (h r sg : Nat) (q : Point) :
    RaisesOnlyListed .ecdsaVerify (ecdsaVerify c h r sg q) :=
  raises_ite (raises_error (by decide)) (raises_ite (raises_error (by decide)) (raises_ok _ _))

theorem rsaSignature_raises (h d n : Nat) : RaisesOnlyListed .rsaSign (rsaSignature h d n) :=
  raises_ite (raises_error (by decide)) (raises_ite (raises_error (by decide)) (raises_ok _ _))

theorem rsaVerify_raises (strip : Bool) (h sig n : Nat) : RaisesOnlyListed .rsaVerify (rsaVerify strip h sig n) :=
  raises_ite (raises_error (by decide))
    (raises_ite (raises_error (by decide)) (raises_ite (raises_ok _ _) (raises_ok _ _)))

theorem rsaKey_raises (p q : Nat) : RaisesOnlyListed .rsaKeygen (rsaKey p q) := by
  refine raises_ite (raises_error (by decide)) ?_
  split
  · exact raises_error (by decide)
  · exact raises_ok _ _

theorem rsaGenerate_raises (par : Params) (dr : Draws) : RaisesOnlyListed .rsaKeygen (rsaGenerate par dr).1 := by
  unfold rsaGenerate
  split
  · exact raises_error (by decide)
  · split
    · exact raises_error (by decide)
    · exact rsaKey_raises _ _

/-! The errors of a command's completion. -/

theorem mem_raisedBy_none (o : Opcode) : o ∈ raisedBy .none := by
  cases o <;> decide

/-- The completion's code is listed for the opcode (R241), and with an error it writes no destination (R240). -/
structure Completion.Precise (c : Completion) (o : Opcode) : Prop where
  raised : o ∈ raisedBy c.code
  big : c.code ≠ .none → c.big = []
  pt : c.code ≠ .none → c.pt = []

theorem precise_of_success {c : Completion} (h : c.code = .none) (o : Opcode) : c.Precise o :=
  ⟨h ▸ mem_raisedBy_none o, absurd h, absurd h⟩

theorem precise_of_error {c : Completion} {o : Opcode} (code : ErrCode) (hc : c.code = code)
    (h : o ∈ raisedBy code) (hb : c.big = []) (hp : c.pt = []) : c.Precise o :=
  ⟨hc ▸ h, fun _ => hb, fun _ => hp⟩

theorem ofBig_precise {o : Opcode} {e : Except ErrCode Nat} (h : RaisesOnlyListed o e) (dr : Draws) (d : BReg) :
    (Completion.ofBig dr d e).Precise o := by
  cases e with
  | ok v => exact precise_of_success rfl o
  | error code => exact precise_of_error code rfl (h code rfl) rfl rfl

theorem ofPoint_precise {o : Opcode} {e : Except ErrCode Point} (h : RaisesOnlyListed o e) (dr : Draws) (d : PReg) :
    (Completion.ofPoint dr d e).Precise o := by
  cases e with
  | ok q => exact precise_of_success rfl o
  | error code => exact precise_of_error code rfl (h code rfl) rfl rfl

theorem ofBool_precise {o : Opcode} {e : Except ErrCode Bool} (h : RaisesOnlyListed o e) (dr : Draws) :
    (Completion.ofBool dr e).Precise o := by
  cases e with
  | ok b => exact precise_of_success rfl o
  | error code => exact precise_of_error code rfl (h code rfl) rfl rfl

theorem ecdsaKeygen_precise (dr : Draws) (c : CurveCfg) (priv : BReg) (pub : PReg) :
    (Completion.ecdsaKeygen dr c priv pub).Precise .ecdsaKeygen := by
  unfold Completion.ecdsaKeygen
  split
  · exact precise_of_error .badConfig rfl (by decide) rfl rfl
  · split
    · next code he => exact precise_of_error code rfl (keygenPoint_raises _ _ code he) rfl rfl
    · exact precise_of_success rfl _

theorem ofSignRun_precise (r sg : BReg) (run : SignRun) : (Completion.ofSignRun r sg run).Precise .ecdsaSign := by
  unfold Completion.ofSignRun
  split
  · exact precise_of_success rfl _
  · exact precise_of_error .retryExhausted rfl (by decide) rfl rfl

theorem ecdsaSign_precise (dr : Draws) (o : Snapshot) (r sg h priv : BReg) :
    (Completion.ecdsaSign dr o r sg h priv).Precise .ecdsaSign := by
  unfold Completion.ecdsaSign
  split
  · exact precise_of_error .destAlias rfl (by decide) rfl rfl
  · split
    · exact precise_of_error .badConfig rfl (by decide) rfl rfl
    · split
      · exact precise_of_error .operandRange rfl (by decide) rfl rfl
      · exact ofSignRun_precise _ _ _

theorem rsaKeygen_precise (par : Params) (dr : Draws) (n d : BReg) :
    (Completion.rsaKeygen par dr n d).Precise .rsaKeygen := by
  unfold Completion.rsaKeygen
  split
  · exact precise_of_error .destAlias rfl (by decide) rfl rfl
  · split
    · next code he => exact precise_of_error code rfl (rsaGenerate_raises _ _ code he) rfl rfl
    · exact precise_of_success rfl _

/-- Every command's errors are precise and listed for it (R240, R241). -/
theorem completionOf_precise (i : Instr) (par : Params) (dr : Draws) (o : Snapshot) :
    (completionOf i par dr o).Precise (opcode i) := by
  cases i with
  | nop => exact precise_of_success rfl _
  | modadd => exact ofBig_precise (modAdd_raises _ _ _) _ _
  | modsub => exact ofBig_precise (modSub_raises _ _ _) _ _
  | modmul => exact ofBig_precise (modMul_raises _ _ _) _ _
  | montmul => exact ofBig_precise (montMul_raises _ _ _) _ _
  | modred => exact ofBig_precise (modRed_raises _ _) _ _
  | modinv => exact ofBig_precise (modInv_raises _ _) _ _
  | modexp => exact ofBig_precise (modExp_raises _ _ _) _ _
  | ecadd => exact ofPoint_precise (pointAdd_raises _ _ _) _ _
  | ecdbl => exact ofPoint_precise (pointDouble_raises _ _) _ _
  | ecmul => exact ofPoint_precise (pointMul_raises _ _ _) _ _
  | ecchk => exact ofBool_precise (pointCheck_raises _ _) _
  | ecdsaKeygen => exact ecdsaKeygen_precise _ _ _ _
  | ecdsaSign => exact ecdsaSign_precise _ _ _ _ _ _
  | ecdsaVerify => exact ofBool_precise (ecdsaVerify_raises _ _ _ _ _) _
  | rsaKeygen => exact rsaKeygen_precise _ _ _ _
  | rsaSign => exact ofBig_precise (rsaSignature_raises _ _ _) _ _
  | rsaVerify => exact ofBool_precise (rsaVerify_raises _ _ _ _) _

/-! The errors of a completed word. -/

theorem exec_raises {i : Instr} {s t : State} (h : exec i s = .next t) : opcode i ∈ raisedBy t.err := by
  rw [exec_next_iff.mp h]
  exact (completionOf_precise i _ _ _).raised

theorem exec_error_keeps_registers {i : Instr} {s t : State} (h : exec i s = .next t) (herr : t.err ≠ .none) :
    t.big = s.big ∧ t.pt = s.pt := by
  have hc := completionOf_precise i (s.prepared i).par (s.prepared i).draws (s.values i)
  rw [exec_next_iff.mp h] at herr ⊢
  rw [Completion.applyTo, hc.big herr, hc.pt herr]
  exact ⟨prepared_big s i, prepared_pt s i⟩

/-- The three completions of a word (R96). -/
theorem completeWord_cases {w : Word} {s t : State} (h : completeWord w s = .next t) :
    (decode w = .illegal ∧ t = s.completeError .illegalOpcode) ∨
    (∃ o, decode w = .reserved o ∧ t = s.completeError .reservedField) ∨
    ∃ i, decode w = .cmd i ∧ exec i s = .next t := by
  unfold completeWord at h
  split at h
  · next hw => cases h; exact .inl ⟨hw, rfl⟩
  · next o hw => cases h; exact .inr (.inl ⟨o, hw, rfl⟩)
  · next i hw => exact .inr (.inr ⟨i, hw, h⟩)

theorem completeWord_error_keeps_registers {w : Word} {s t : State} (h : completeWord w s = .next t)
    (herr : t.err ≠ .none) : t.big = s.big ∧ t.pt = s.pt := by
  obtain ⟨-, rfl⟩ | ⟨o, -, rfl⟩ | ⟨i, -, hexec⟩ := completeWord_cases h
  · exact ⟨rfl, rfl⟩
  · exact ⟨rfl, rfl⟩
  · exact exec_error_keeps_registers hexec herr

/-- Settles O15: an error writes no destination, and the rest is what every completion leaves. -/
theorem errorsArePrecise : Obligations.ErrorsArePrecise := by
  intro w s t h herr
  obtain ⟨hbig, hpt⟩ := completeWord_error_keeps_registers h herr
  have hc := completeWord_wordCompleted h
  refine ⟨hbig, hpt, hc.toSameOthers, ?_, hc.done, hc.phase, fun hsign => ?_⟩
  · exact Bool.eq_false_iff.mpr fun hresult => herr (hc.result hresult).1
  · exact by_contra fun htries => hsign (hc.tries htries)

/-- Settles O18: no command is listed for the two decode errors, and each command raises the errors listed for it. -/
theorem errorsAreRaisedByTheirCommands : Obligations.ErrorsAreRaisedByTheirCommands := by
  intro w s t h
  obtain ⟨hw, rfl⟩ | ⟨o, hw, rfl⟩ | ⟨i, hw, hexec⟩ := completeWord_cases h
  · simp [hw]
  · simp [hw]
  · have hraised := exec_raises hexec
    have hillegal : t.err ≠ .illegalOpcode := fun he => List.not_mem_nil (he ▸ hraised)
    have hreserved : t.err ≠ .reservedField := fun he => List.not_mem_nil (he ▸ hraised)
    simpa [hw, hillegal, hreserved] using hraised

end Sys2Proof.Proofs
end

section
/-! Reset (R270 to R272). -/

namespace Sys2Proof.Proofs

open Sys2Proof.Machine

/-- No word of a register is written right after reset (R270). -/
theorem getLsbD_written_bigReg_reset (k : Nat) : BigReg.reset.written.getLsbD k = false := BitVec.getLsbD_zero

/-- What the host reads of ID, PARAM, CTRL, STATUS, CMD, ERRCODE, TRIES and SIGNMAX right after reset is asserted
(R270). -/
theorem readSlot_assertReset (s : State) :
    s.assertReset.readSlot .id = some 0x43534331 ∧
      s.assertReset.readSlot .param = some (BitVec.ofNat 32 (s.par.pbits * 2 ^ 16 + s.par.opw)) ∧
      s.assertReset.readSlot .ctrl = some 0 ∧ s.assertReset.readSlot .status = some 0 ∧
      s.assertReset.readSlot .cmd = some 0 ∧ s.assertReset.readSlot .errcode = some 0 ∧
      s.assertReset.readSlot .tries = some 0 ∧ s.assertReset.readSlot .signmax = some 0x10 :=
  ⟨rfl, rfl, (by decide : State.reset.readSlot .ctrl = some 0), (by decide : State.reset.readSlot .status = some 0),
    rfl, rfl, rfl, rfl⟩

/-- Settles O10: both steps are those of the reset line, and the registers are those of State.reset. -/
theorem resetSetsEveryItem : Obligations.ResetSetsEveryItem := by
  refine ⟨fun s rest hin => ?_, fun s rest hin => Laws.step_of_input hin, rfl, rfl⟩
  refine ⟨_, Laws.step_of_input hin, rfl, fun r k => ?_, fun r => ?_, fun r k => ?_, rfl, ?_⟩
  · rw [Laws.assertReset_big, reset_big_get, getLsbD_written_bigReg_reset]
  · rw [Laws.assertReset_pt, reset_pt_get]
    rfl
  · rw [Laws.assertReset_pt, reset_pt_get]
    exact ⟨getLsbD_written_bigReg_reset k, getLsbD_written_bigReg_reset k⟩
  · obtain ⟨hid, hparam, hctrl, hstatus, hcmd, herr, htries, hmax⟩ :=
      readSlot_assertReset { s with inputs := rest }
    exact ⟨hid, hparam, hctrl, hstatus, hcmd, herr, htries, hmax, rfl, rfl⟩

end Sys2Proof.Proofs
end

section
/-! Runs: the inputs bound the length of a BUSY phase (R283), and the record of the hardware's run tells whether the
spec's run met the fault UNWRITTEN_OPERAND (R245, R284; log 7). -/

namespace Sys2Proof.Proofs

open Sys2Proof.Machine

/-! Each step takes one input, and the sequencer's turn ends in IDLE. -/

theorem sequencerTurn_phase {s t : State} (h : sequencerTurn s = .next t) : t.phase = .idle := by
  unfold sequencerTurn at h
  split at h
  · next hp => cases h; exact hp
  · exact (completeWord_wordCompleted h).phase

theorem sequencerTurn_inputs {s t : State} (h : sequencerTurn s = .next t) : t.inputs = s.inputs := by
  unfold sequencerTurn at h
  split at h
  · cases h; rfl
  · exact (completeWord_wordCompleted h).inputs

/-- A host write leaves the record. -/
theorem writeSlot_unwrittenOperand (s : State) (slot : Slot) (v : Word) :
    (s.writeSlot slot v).unwrittenOperand = s.unwrittenOperand := by
  cases writeSlot_effect s slot v with
  | stored hdata _ ht => rw [ht, storeSlot_of_isData s v hdata]
  | dropped _ ht | ctrl _ ht | status _ ht | overrun _ _ ht | accepted _ _ ht | ignored ht => simp [ht]

theorem hostWrite_env (s : State) (addr size : Nat) (v : Word) :
    (s.hostWrite addr size v).inputs = s.inputs ∧
      (s.hostWrite addr size v).unwrittenOperand = s.unwrittenOperand := by
  cases ha : s.turnedAway addr size with
  | some r => rw [Laws.hostWrite_turnedAway ha]; exact ⟨rfl, rfl⟩
  | none =>
    obtain ⟨-, -, hinputs, -⟩ := Laws.writeSlot_env s (slotAt s.par (addr - s.par.wbase)) v
    rw [Laws.hostWrite_taken ha]
    exact ⟨hinputs, writeSlot_unwrittenOperand s _ v⟩

theorem step_inputs_of_cons {s t : State} {e : Input} {rest : List Input} (hin : s.inputs = e :: rest)
    (h : step s = .next t) : t.inputs = rest := by
  rw [Laws.step_of_input hin] at h
  cases e with
  | read addr size => cases h; exact Laws.hostRead_inputs _ addr size
  | write addr size v => cases h; exact (hostWrite_env _ addr size v).1
  | complete => exact sequencerTurn_inputs h
  | resetAssert | resetRelease => cases h; rfl

theorem runSteps_succ_of_next {s t : State} (k : Nat) (h : step s = .next t) : runSteps (k + 1) s = runSteps k t :=
  Laws.run_succ_of_next (M := core) k h

/-- One step for each listed input, and one turn of the sequencer in the silence after them. -/
theorem runSteps_reaches_idle (s : State) : ∃ t, runSteps (s.inputs.length + 1) s = .next t ∧ t.phase = .idle := by
  obtain ⟨u, hu⟩ := step_total s
  rw [runSteps_succ_of_next _ hu]
  induction hin : s.inputs generalizing s u with
  | nil =>
    rw [Laws.step_of_no_inputs hin] at hu
    exact ⟨u, rfl, sequencerTurn_phase hu⟩
  | cons e rest ih =>
    obtain ⟨v, hv⟩ := step_total u
    obtain ⟨t, ht, hidle⟩ := ih u v hv (step_inputs_of_cons hin hu)
    exact ⟨t, (runSteps_succ_of_next _ hv).trans ht, hidle⟩

/-! The record keeps the first fault of the spec's run (log 7). -/

theorem modelFault_of_no_turn {s : State} {e : Input} {rest : List Input} (hin : s.inputs = e :: rest)
    (he : e ≠ .complete) : s.modelFault = none := by
  refine Option.eq_none_iff_forall_ne_some.mpr fun i hf => ?_
  obtain ⟨-, hnil | ⟨rest, hcons⟩, -⟩ := Laws.modelFault_eq_some.mp hf
  · rw [hin] at hnil
    cases hnil
  · rw [hin] at hcons
    cases hcons
    exact he rfl

theorem modelFault_of_turn {s : State} {w : Word} {snap : Snapshot} (hp : s.phase = .busy w snap)
    (hin : s.inputs = [] ∨ ∃ rest, s.inputs = .complete :: rest) : s.modelFault = s.unwrittenNeed w := by
  rw [State.modelFault, Laws.completing_eq_some.mpr ⟨⟨snap, hp⟩, hin⟩, Option.bind_some]

theorem modelFault_of_idle {s : State} (hp : s.phase = .idle) : s.modelFault = none := by
  simp [State.modelFault, State.completing, hp]

/-- A completion records the command where the spec's run faults, unless one is recorded already (R22, R245). -/
theorem completeWord_record {w : Word} {s t : State} (h : completeWord w s = .next t) :
    t.unwrittenOperand = s.unwrittenOperand.or (s.unwrittenNeed w) := by
  cases hd : decode w with
  | illegal | reserved o =>
    simp only [completeWord, hd] at h
    cases h
    simp [State.unwrittenNeed, hd]
  | cmd i =>
    obtain ⟨u, hu, -, -, hwritten, hunwritten⟩ := exec_completes i s
    have hcompleted : completeWord w s = .next u := by simp only [completeWord, hd, hu]
    obtain rfl : u = t := Host.Outcome.next.inj (hcompleted.symm.trans h)
    cases ho : operandsWritten s.par s.operands i with
    | true => simp [State.unwrittenNeed, hd, ho, hwritten ho]
    | false => cases hrec : s.unwrittenOperand <;> simp [State.unwrittenNeed, hd, ho, hunwritten ho, hrec]

/-- The sequencer's turn of the step from s, whose inputs to come do not matter to it. -/
theorem sequencerTurn_record {s t : State} (rest : List Input)
    (hin : s.inputs = [] ∨ ∃ rest, s.inputs = .complete :: rest)
    (h : sequencerTurn { s with inputs := rest } = .next t) :
    t.unwrittenOperand = s.unwrittenOperand.or s.modelFault := by
  unfold sequencerTurn at h
  split at h
  · next hp => cases h; rw [modelFault_of_idle (s := s) hp, Option.or_none]
  · next w snap hp =>
    rw [modelFault_of_turn (s := s) hp hin]
    exact completeWord_record (s := { s with inputs := rest }) h

/-- A step records the fault of the spec's step, unless one is recorded already. -/
theorem step_record {s t : State} (h : step s = .next t) :
    t.unwrittenOperand = s.unwrittenOperand.or s.modelFault := by
  cases hin : s.inputs with
  | nil =>
    rw [Laws.step_of_no_inputs hin] at h
    exact sequencerTurn_record s.inputs (.inl hin) h
  | cons e rest =>
    rw [Laws.step_of_input hin] at h
    cases e with
    | complete => exact sequencerTurn_record rest (.inr ⟨rest, hin⟩) h
    | read addr size =>
      cases h
      rw [modelFault_of_no_turn hin nofun, Option.or_none, Laws.hostRead_sameBlock]
    | write addr size v =>
      cases h
      rw [modelFault_of_no_turn hin nofun, Option.or_none, (hostWrite_env _ addr size v).2]
    | resetAssert | resetRelease =>
      cases h
      rw [modelFault_of_no_turn hin nofun, Option.or_none]
      rfl

/-- The spec's run is the hardware's where nothing is recorded on the way, and else it ended as the fault of a command,
which is recorded unless one was before. -/
theorem modelRun_of_runSteps {k : Nat} {s t : State} (h : runSteps k s = .next t) :
    (t.unwrittenOperand = s.unwrittenOperand ∧ modelRun k s = .next t) ∨
      ∃ i, t.unwrittenOperand = s.unwrittenOperand.or (some i) ∧ modelRun k s = .fault (.unwrittenOperand i) := by
  induction k generalizing s with
  | zero => cases h; exact .inl ⟨rfl, rfl⟩
  | succ k ih =>
    obtain ⟨u, hu⟩ := step_total s
    rw [runSteps_succ_of_next k hu] at h
    have hrec := step_record hu
    cases hf : s.modelFault with
    | none =>
      rw [hf, Option.or_none] at hrec
      rw [Laws.modelRun_succ_of_next k (Laws.modelStep_eq_next.mpr ⟨hf, hu⟩), ← hrec]
      exact ih h
    | some i =>
      refine .inr ⟨i, ?_, Laws.modelRun_succ_of_fault k (Laws.modelStep_of_fault hf)⟩
      rw [← hf, ← hrec]
      obtain ⟨hkeep, -⟩ | ⟨j, hkeep, -⟩ := ih h
      · exact hkeep
      · rw [hkeep, hrec, hf, Option.or_assoc, Option.some_or]

/-- From a state with an empty record, the record tells how the spec's run ended (log 7). -/
theorem record_tells_modelRun {k : Nat} {s t : State} (h0 : s.unwrittenOperand = none) (h : runSteps k s = .next t) :
    (t.unwrittenOperand = none → modelRun k s = .next t) ∧
      (∀ i, t.unwrittenOperand = some i → modelRun k s = .fault (.unwrittenOperand i)) ∧
      (t.Ended ↔ EndsIn k s t) := by
  obtain ⟨hrec, hrun⟩ | ⟨i, hrec, hrun⟩ := modelRun_of_runSteps h
  · rw [h0] at hrec
    simp [State.Ended, EndsIn, hrec, hrun]
  · rw [h0, Option.none_or] at hrec
    simp [State.Ended, EndsIn, hrec, hrun]

/-- Settles O58: the inputs bound the run, and the record compares the two runs. -/
theorem busyPhaseEnds : Obligations.BusyPhaseEnds := by
  refine fun s => ⟨⟨s.inputs.length + 1, Nat.le_refl _, ?_⟩, fun h0 k t => record_tells_modelRun h0⟩
  obtain ⟨t, ht, hidle⟩ := runSteps_reaches_idle s
  refine ⟨t, ht, hidle, ?_⟩
  obtain ⟨-, hrun⟩ | ⟨i, -, hrun⟩ := modelRun_of_runSteps ht
  · exact .inl ⟨hrun, hidle⟩
  · exact .inr ⟨i, hrun⟩

end Sys2Proof.Proofs
end
